-- ==== Sys2Proof/Word.lean ====
section
/-! DEFINITION. The word types of the core: `Word32` and `Word64` of 00_scope.md R10, the byte, and the 5-bit register
index of 10_state.md R13. Widths are those of 00_scope.md R8 (`XLEN`, `ALEN` 32 bits). -/

namespace Sys2Proof

/-- One byte of memory (20_memory.md R46). -/
abbrev Byte := BitVec 8

/-- `Word32`: registers, addresses, instruction words (00_scope.md R8, R10). -/
abbrev Word := BitVec 32

/-- `Word64`: operand value fields and double-precision pairs (10_state.md R30). -/
abbrev DWord := BitVec 64

/-- A register number or shift amount, a 5-bit number (10_state.md R13, R29, R30). -/
abbrev RegIdx := Fin 32

end Sys2Proof
end

