-- ==== Sys2Proof/Config.lean ====
section
/-! DEFINITION. What one configuration of the core fixes: the handler identifiers (45_reference_isa_int.md R159), the
forwarding modes (30_encoding.md R75), the values this model takes at reset for the spec's open parameters, and the
spec's opaque parameters as constants with no body (46_reference_isa_fp.md R241, R261). -/

namespace Sys2Proof

/-- The enumeration of the mnemonics of spec/opcode_table.json: `AluId` and `MemId` are both this enumeration
(45_reference_isa_int.md R159). The model uses it in every configuration (DESIGN CHOICE, log entry 18). -/
inductive Mnemonic where
  | sll | srl | sra | sllv | srlv | srav | add | addu
  | sub | subu | and | or | xor | nor | slt | sltu
  | mfhi | mthi | mflo | mtlo | mult | multu | div | divu
  | addi | addiu | slti | sltiu | andi | ori | xori | lui
  | j | jal | jr | jalr | beq | bne | blez | bgtz
  | bltz | bgez | bltzal | bgezal | syscall | lb | lbu | lh
  | lhu | lw | lwl | lwr | sb | sh | sw | swl
  | swr | mfc1 | mtc1 | addS | subS | mulS | divS | movS
  | addD | subD | mulD | divD | movD | lwc1 | swc1
  deriving DecidableEq, Repr

/-- The bypass build (30_encoding.md R75): `none` stalls on every hazard, `ex` has the EX to EX path, `exmem` the EX to EX
and the MEM to EX paths. -/
inductive ForwardMode where
  | none | ex | exmem
  deriving DecidableEq, Repr

namespace Config

/-- The boot address at `State.reset`. The spec leaves `bootPC` OPEN (00_scope.md R8). DESIGN CHOICE, log entry 3: the
address of the spec's own test vectors (95_test_vectors.md section 0). -/
def bootPC : Word := 0x400

/-- The bypass build at `State.reset`. OPEN in the spec (00_scope.md R8). DESIGN CHOICE, log entry 2. -/
def fwdMode : ForwardMode := .none

/-- The instruction budget at `State.reset`; `none` is unlimited. OPEN in the spec (00_scope.md R8). DESIGN CHOICE, log
entry 2. -/
def instrBudget : Option Nat := .none

/-! The eight floating-point functions are opaque total functions (46_reference_isa_fp.md R241; log entry 6). -/

/-- Single-precision addition, opaque (46_reference_isa_fp.md R241). -/
opaque fadd32 : Word → Word → Word
/-- Single-precision subtraction, opaque (46_reference_isa_fp.md R241). -/
opaque fsub32 : Word → Word → Word
/-- Single-precision multiplication, opaque (46_reference_isa_fp.md R241). -/
opaque fmul32 : Word → Word → Word
/-- Single-precision division, opaque (46_reference_isa_fp.md R241). -/
opaque fdiv32 : Word → Word → Word
/-- Double-precision addition, opaque (46_reference_isa_fp.md R241). -/
opaque fadd64 : DWord → DWord → DWord
/-- Double-precision subtraction, opaque (46_reference_isa_fp.md R241). -/
opaque fsub64 : DWord → DWord → DWord
/-- Double-precision multiplication, opaque (46_reference_isa_fp.md R241). -/
opaque fmul64 : DWord → DWord → DWord
/-- Double-precision division, opaque (46_reference_isa_fp.md R241). -/
opaque fdiv64 : DWord → DWord → DWord

/-- The raw draw of a monotonic time query that is the n-th draw of a run: a free value (46_reference_isa_fp.md R261; log entry 7).
`Sys2Proof.Machine.nextTime` makes the run's times monotone. -/
opaque timeDraw : Nat → DWord

/-- The n-th free value of a run, where a system-call collaborator makes a choice that is no time query: a free value
(60_exceptions.md R282; log entry 8). The reference services make no such choice. -/
opaque sysChoice : Nat → Nat

end Config

end Sys2Proof
end

