-- ==== Sys2Proof/Syntax.lean ====
section
/-! DEFINITION. The reference instruction set as data: one constructor per row of spec/opcode_table.json, its operands in the
order of the assembler syntax of 30_encoding.md R78. A field a row does not name (a don't-care bit, R80) is no operand. -/

namespace Sys2Proof

/-- One reference instruction (45_reference_isa_int.md R164 to R221, 46_reference_isa_fp.md R243 to R257). `imm` is
`ins[15:0]`, `target` is `ins[25:0]`; registers and `shamt` are 5-bit numbers (30_encoding.md R77, R79). -/
inductive Instr where
  | sll (rd rt shamt : RegIdx)                          -- SLL, R164
  | srl (rd rt shamt : RegIdx)                          -- SRL, R165
  | sra (rd rt shamt : RegIdx)                          -- SRA, R166
  | sllv (rd rt rs : RegIdx)                            -- SLLV, R167
  | srlv (rd rt rs : RegIdx)                            -- SRLV, R168
  | srav (rd rt rs : RegIdx)                            -- SRAV, R169
  | add (rd rs rt : RegIdx)                             -- ADD, R170
  | addu (rd rs rt : RegIdx)                            -- ADDU, R171
  | sub (rd rs rt : RegIdx)                             -- SUB, R172
  | subu (rd rs rt : RegIdx)                            -- SUBU, R173
  | and (rd rs rt : RegIdx)                             -- AND, R174
  | or (rd rs rt : RegIdx)                              -- OR, R175
  | xor (rd rs rt : RegIdx)                             -- XOR, R176
  | nor (rd rs rt : RegIdx)                             -- NOR, R177
  | slt (rd rs rt : RegIdx)                             -- SLT, R178
  | sltu (rd rs rt : RegIdx)                            -- SLTU, R179
  | mfhi (rd : RegIdx)                                  -- MFHI, R180
  | mthi (rs : RegIdx)                                  -- MTHI, R181
  | mflo (rd : RegIdx)                                  -- MFLO, R182
  | mtlo (rs : RegIdx)                                  -- MTLO, R183
  | mult (rs rt : RegIdx)                               -- MULT, R184
  | multu (rs rt : RegIdx)                              -- MULTU, R185
  | div (rs rt : RegIdx)                                -- DIV, R186
  | divu (rs rt : RegIdx)                               -- DIVU, R187
  | addi (rt rs : RegIdx) (imm : BitVec 16)             -- ADDI, R188
  | addiu (rt rs : RegIdx) (imm : BitVec 16)            -- ADDIU, R189
  | slti (rt rs : RegIdx) (imm : BitVec 16)             -- SLTI, R190
  | sltiu (rt rs : RegIdx) (imm : BitVec 16)            -- SLTIU, R191
  | andi (rt rs : RegIdx) (imm : BitVec 16)             -- ANDI, R192
  | ori (rt rs : RegIdx) (imm : BitVec 16)              -- ORI, R193
  | xori (rt rs : RegIdx) (imm : BitVec 16)             -- XORI, R194
  | lui (rt : RegIdx) (imm : BitVec 16)                 -- LUI, R195
  | j (target : BitVec 26)                              -- J, R196
  | jal (target : BitVec 26)                            -- JAL, R197
  | jr (rs : RegIdx)                                    -- JR, R198
  | jalr (rd rs : RegIdx)                               -- JALR, R199
  | beq (rs rt : RegIdx) (imm : BitVec 16)              -- BEQ, R200
  | bne (rs rt : RegIdx) (imm : BitVec 16)              -- BNE, R201
  | blez (rs : RegIdx) (imm : BitVec 16)                -- BLEZ, R202
  | bgtz (rs : RegIdx) (imm : BitVec 16)                -- BGTZ, R203
  | bltz (rs : RegIdx) (imm : BitVec 16)                -- BLTZ, R204
  | bgez (rs : RegIdx) (imm : BitVec 16)                -- BGEZ, R205
  | bltzal (rs : RegIdx) (imm : BitVec 16)              -- BLTZAL, R206
  | bgezal (rs : RegIdx) (imm : BitVec 16)              -- BGEZAL, R207
  | syscall                                             -- SYSCALL, R208
  | lb (rt rs : RegIdx) (imm : BitVec 16)               -- LB, R209
  | lbu (rt rs : RegIdx) (imm : BitVec 16)              -- LBU, R210
  | lh (rt rs : RegIdx) (imm : BitVec 16)               -- LH, R211
  | lhu (rt rs : RegIdx) (imm : BitVec 16)              -- LHU, R212
  | lw (rt rs : RegIdx) (imm : BitVec 16)               -- LW, R213
  | lwl (rt rs : RegIdx) (imm : BitVec 16)              -- LWL, R214
  | lwr (rt rs : RegIdx) (imm : BitVec 16)              -- LWR, R215
  | sb (rt rs : RegIdx) (imm : BitVec 16)               -- SB, R217
  | sh (rt rs : RegIdx) (imm : BitVec 16)               -- SH, R218
  | sw (rt rs : RegIdx) (imm : BitVec 16)               -- SW, R219
  | swl (rt rs : RegIdx) (imm : BitVec 16)              -- SWL, R220
  | swr (rt rs : RegIdx) (imm : BitVec 16)              -- SWR, R221
  | mfc1 (rt fs : RegIdx)                               -- MFC1, R243
  | mtc1 (rt fs : RegIdx)                               -- MTC1, R244
  | addS (fd fs ft : RegIdx)                            -- ADD.S, R245
  | subS (fd fs ft : RegIdx)                            -- SUB.S, R246
  | mulS (fd fs ft : RegIdx)                            -- MUL.S, R247
  | divS (fd fs ft : RegIdx)                            -- DIV.S, R248
  | movS (fd fs : RegIdx)                               -- MOV.S, R249
  | addD (fd fs ft : RegIdx)                            -- ADD.D, R250
  | subD (fd fs ft : RegIdx)                            -- SUB.D, R251
  | mulD (fd fs ft : RegIdx)                            -- MUL.D, R252
  | divD (fd fs ft : RegIdx)                            -- DIV.D, R253
  | movD (fd fs : RegIdx)                               -- MOV.D, R254
  | lwc1 (ft rs : RegIdx) (imm : BitVec 16)             -- LWC1, R256
  | swc1 (ft rs : RegIdx) (imm : BitVec 16)             -- SWC1, R257
  deriving DecidableEq, Repr

/-- The row of spec/opcode_table.json an instruction belongs to (45_reference_isa_int.md R159). -/
def Instr.mnemonic : Instr → Mnemonic
  | .sll _ _ _ => .sll
  | .srl _ _ _ => .srl
  | .sra _ _ _ => .sra
  | .sllv _ _ _ => .sllv
  | .srlv _ _ _ => .srlv
  | .srav _ _ _ => .srav
  | .add _ _ _ => .add
  | .addu _ _ _ => .addu
  | .sub _ _ _ => .sub
  | .subu _ _ _ => .subu
  | .and _ _ _ => .and
  | .or _ _ _ => .or
  | .xor _ _ _ => .xor
  | .nor _ _ _ => .nor
  | .slt _ _ _ => .slt
  | .sltu _ _ _ => .sltu
  | .mfhi _ => .mfhi
  | .mthi _ => .mthi
  | .mflo _ => .mflo
  | .mtlo _ => .mtlo
  | .mult _ _ => .mult
  | .multu _ _ => .multu
  | .div _ _ => .div
  | .divu _ _ => .divu
  | .addi _ _ _ => .addi
  | .addiu _ _ _ => .addiu
  | .slti _ _ _ => .slti
  | .sltiu _ _ _ => .sltiu
  | .andi _ _ _ => .andi
  | .ori _ _ _ => .ori
  | .xori _ _ _ => .xori
  | .lui _ _ => .lui
  | .j _ => .j
  | .jal _ => .jal
  | .jr _ => .jr
  | .jalr _ _ => .jalr
  | .beq _ _ _ => .beq
  | .bne _ _ _ => .bne
  | .blez _ _ => .blez
  | .bgtz _ _ => .bgtz
  | .bltz _ _ => .bltz
  | .bgez _ _ => .bgez
  | .bltzal _ _ => .bltzal
  | .bgezal _ _ => .bgezal
  | .syscall => .syscall
  | .lb _ _ _ => .lb
  | .lbu _ _ _ => .lbu
  | .lh _ _ _ => .lh
  | .lhu _ _ _ => .lhu
  | .lw _ _ _ => .lw
  | .lwl _ _ _ => .lwl
  | .lwr _ _ _ => .lwr
  | .sb _ _ _ => .sb
  | .sh _ _ _ => .sh
  | .sw _ _ _ => .sw
  | .swl _ _ _ => .swl
  | .swr _ _ _ => .swr
  | .mfc1 _ _ => .mfc1
  | .mtc1 _ _ => .mtc1
  | .addS _ _ _ => .addS
  | .subS _ _ _ => .subS
  | .mulS _ _ _ => .mulS
  | .divS _ _ _ => .divS
  | .movS _ _ => .movS
  | .addD _ _ _ => .addD
  | .subD _ _ _ => .subD
  | .mulD _ _ _ => .mulD
  | .divD _ _ _ => .divD
  | .movD _ _ => .movD
  | .lwc1 _ _ _ => .lwc1
  | .swc1 _ _ _ => .swc1

end Sys2Proof
end

