-- ==== Sys2Proof/WellFormed.lean ====
section
/-! DEFINITION. Which instruction terms stand for a word the configuration gives a meaning: the only check left to make on a
term is that a double-precision instruction names even registers (46_reference_isa_fp.md R255); every other bound is in
the operand's type. -/

namespace Sys2Proof

/-- A register that can name a double-precision pair: `f<2k>` (46_reference_isa_fp.md R240). -/
def evenReg (r : RegIdx) : Bool := r.val % 2 == 0

/-- A double-precision instruction names an even fd, fs and ft, ft only where it is used (46_reference_isa_fp.md R255). -/
def Instr.wellFormed : Instr → Bool
  | .sll _ _ _ => true
  | .srl _ _ _ => true
  | .sra _ _ _ => true
  | .sllv _ _ _ => true
  | .srlv _ _ _ => true
  | .srav _ _ _ => true
  | .add _ _ _ => true
  | .addu _ _ _ => true
  | .sub _ _ _ => true
  | .subu _ _ _ => true
  | .and _ _ _ => true
  | .or _ _ _ => true
  | .xor _ _ _ => true
  | .nor _ _ _ => true
  | .slt _ _ _ => true
  | .sltu _ _ _ => true
  | .mfhi _ => true
  | .mthi _ => true
  | .mflo _ => true
  | .mtlo _ => true
  | .mult _ _ => true
  | .multu _ _ => true
  | .div _ _ => true
  | .divu _ _ => true
  | .addi _ _ _ => true
  | .addiu _ _ _ => true
  | .slti _ _ _ => true
  | .sltiu _ _ _ => true
  | .andi _ _ _ => true
  | .ori _ _ _ => true
  | .xori _ _ _ => true
  | .lui _ _ => true
  | .j _ => true
  | .jal _ => true
  | .jr _ => true
  | .jalr _ _ => true
  | .beq _ _ _ => true
  | .bne _ _ _ => true
  | .blez _ _ => true
  | .bgtz _ _ => true
  | .bltz _ _ => true
  | .bgez _ _ => true
  | .bltzal _ _ => true
  | .bgezal _ _ => true
  | .syscall => true
  | .lb _ _ _ => true
  | .lbu _ _ _ => true
  | .lh _ _ _ => true
  | .lhu _ _ _ => true
  | .lw _ _ _ => true
  | .lwl _ _ _ => true
  | .lwr _ _ _ => true
  | .sb _ _ _ => true
  | .sh _ _ _ => true
  | .sw _ _ _ => true
  | .swl _ _ _ => true
  | .swr _ _ _ => true
  | .mfc1 _ _ => true
  | .mtc1 _ _ => true
  | .addS _ _ _ => true
  | .subS _ _ _ => true
  | .mulS _ _ _ => true
  | .divS _ _ _ => true
  | .movS _ _ => true
  | .addD fd fs ft => evenReg fd && evenReg fs && evenReg ft
  | .subD fd fs ft => evenReg fd && evenReg fs && evenReg ft
  | .mulD fd fs ft => evenReg fd && evenReg fs && evenReg ft
  | .divD fd fs ft => evenReg fd && evenReg fs && evenReg ft
  | .movD fd fs => evenReg fd && evenReg fs
  | .lwc1 _ _ _ => true
  | .swc1 _ _ _ => true

end Sys2Proof
end

