-- ==== Sys2Proof/Decode.lean ====
section
/-! DEFINITION. The reference decoder and encoder (30_encoding.md R77 to R80, 45_reference_isa_int.md R222, 46_reference_isa_fp.md
R255, R259). The decoder follows the opcode map of R80; `opcodeTable` is spec/opcode_table.json's match and mask columns,
the second way the spec says which words are legal (30_encoding.md R66). -/

namespace Sys2Proof

/-! ## Fields of a word (30_encoding.md R77; bit 0 is the least significant, 00_scope.md R10) -/

/-- `ins[lo + width - 1 : lo]` as a number. -/
def bitField (w : Word) (lo width : Nat) : Nat := w.toNat / 2 ^ lo % 2 ^ width

/-- `ins[31:26]`. -/
def opcodeOf (w : Word) : Nat := bitField w 26 6
/-- `ins[5:0]`. -/
def functOf (w : Word) : Nat := bitField w 0 6
/-- `ins[25:21]` as a number: the COP1 sub-operation or `fmt`. -/
def fmtOf (w : Word) : Nat := bitField w 21 5
/-- `rs = ins[25:21]`. -/
def rsOf (w : Word) : RegIdx := Fin.ofNat 32 (bitField w 21 5)
/-- `rt = ins[20:16]`. -/
def rtOf (w : Word) : RegIdx := Fin.ofNat 32 (bitField w 16 5)
/-- `rd = ins[15:11]`. -/
def rdOf (w : Word) : RegIdx := Fin.ofNat 32 (bitField w 11 5)
/-- `shamt = ins[10:6]`. -/
def shamtOf (w : Word) : RegIdx := Fin.ofNat 32 (bitField w 6 5)
/-- `ft = ins[20:16]`. -/
def ftOf (w : Word) : RegIdx := Fin.ofNat 32 (bitField w 16 5)
/-- `fs = ins[15:11]`. -/
def fsOf (w : Word) : RegIdx := Fin.ofNat 32 (bitField w 11 5)
/-- `fd = ins[10:6]`. -/
def fdOf (w : Word) : RegIdx := Fin.ofNat 32 (bitField w 6 5)
/-- `imm16 = ins[15:0]`. -/
def imm16Of (w : Word) : BitVec 16 := BitVec.ofNat 16 (bitField w 0 16)
/-- `target26 = ins[25:0]`. -/
def target26Of (w : Word) : BitVec 26 := BitVec.ofNat 26 (bitField w 0 26)

/-! ## The decoder -/

/-- Why a word is no instruction: `illegal` spells none (30_encoding.md R66), `unmodelled` has no meaning in this
configuration (R68). -/
inductive DecodeError where
  | illegal
  | unmodelled (why : String)
  deriving DecidableEq, Repr

/-- A double-precision instruction, or the refusal of an odd register (46_reference_isa_fp.md R255). -/
def decodeDouble (i : Instr) : Except DecodeError Instr :=
  if i.wellFormed then .ok i else .error (.unmodelled "odd double register")

/-- Primary opcode 0x00, by funct (30_encoding.md R80). -/
def decodeSpecial (w : Word) : Except DecodeError Instr :=
  match functOf w with
  | 0x00 => .ok (.sll (rdOf w) (rtOf w) (shamtOf w))
  | 0x02 => .ok (.srl (rdOf w) (rtOf w) (shamtOf w))
  | 0x03 => .ok (.sra (rdOf w) (rtOf w) (shamtOf w))
  | 0x04 => .ok (.sllv (rdOf w) (rtOf w) (rsOf w))
  | 0x06 => .ok (.srlv (rdOf w) (rtOf w) (rsOf w))
  | 0x07 => .ok (.srav (rdOf w) (rtOf w) (rsOf w))
  | 0x08 => .ok (.jr (rsOf w))
  | 0x09 => .ok (.jalr (rdOf w) (rsOf w))
  | 0x0C => .ok (.syscall)
  | 0x10 => .ok (.mfhi (rdOf w))
  | 0x11 => .ok (.mthi (rsOf w))
  | 0x12 => .ok (.mflo (rdOf w))
  | 0x13 => .ok (.mtlo (rsOf w))
  | 0x18 => .ok (.mult (rsOf w) (rtOf w))
  | 0x19 => .ok (.multu (rsOf w) (rtOf w))
  | 0x1A => .ok (.div (rsOf w) (rtOf w))
  | 0x1B => .ok (.divu (rsOf w) (rtOf w))
  | 0x20 => .ok (.add (rdOf w) (rsOf w) (rtOf w))
  | 0x21 => .ok (.addu (rdOf w) (rsOf w) (rtOf w))
  | 0x22 => .ok (.sub (rdOf w) (rsOf w) (rtOf w))
  | 0x23 => .ok (.subu (rdOf w) (rsOf w) (rtOf w))
  | 0x24 => .ok (.and (rdOf w) (rsOf w) (rtOf w))
  | 0x25 => .ok (.or (rdOf w) (rsOf w) (rtOf w))
  | 0x26 => .ok (.xor (rdOf w) (rsOf w) (rtOf w))
  | 0x27 => .ok (.nor (rdOf w) (rsOf w) (rtOf w))
  | 0x2A => .ok (.slt (rdOf w) (rsOf w) (rtOf w))
  | 0x2B => .ok (.sltu (rdOf w) (rsOf w) (rtOf w))
  | _ => .error .illegal

/-- Primary opcode 0x01, by the rt field (30_encoding.md R80). -/
def decodeRegimm (w : Word) : Except DecodeError Instr :=
  match (rtOf w).val with
  | 0x00 => .ok (.bltz (rsOf w) (imm16Of w))
  | 0x01 => .ok (.bgez (rsOf w) (imm16Of w))
  | 0x10 => .ok (.bltzal (rsOf w) (imm16Of w))
  | 0x11 => .ok (.bgezal (rsOf w) (imm16Of w))
  | _ => .error .illegal

/-- COP1 with fmt 0x10 (S), by funct (30_encoding.md R80). -/
def decodeSingle (w : Word) : Except DecodeError Instr :=
  match functOf w with
  | 0x00 => .ok (.addS (fdOf w) (fsOf w) (ftOf w))
  | 0x01 => .ok (.subS (fdOf w) (fsOf w) (ftOf w))
  | 0x02 => .ok (.mulS (fdOf w) (fsOf w) (ftOf w))
  | 0x03 => .ok (.divS (fdOf w) (fsOf w) (ftOf w))
  | 0x06 => .ok (.movS (fdOf w) (fsOf w))
  | _ => .error .illegal

/-- COP1 with fmt 0x11 (D), by funct (30_encoding.md R80; 46_reference_isa_fp.md R255). -/
def decodeDoubleFmt (w : Word) : Except DecodeError Instr :=
  match functOf w with
  | 0x00 => decodeDouble (.addD (fdOf w) (fsOf w) (ftOf w))
  | 0x01 => decodeDouble (.subD (fdOf w) (fsOf w) (ftOf w))
  | 0x02 => decodeDouble (.mulD (fdOf w) (fsOf w) (ftOf w))
  | 0x03 => decodeDouble (.divD (fdOf w) (fsOf w) (ftOf w))
  | 0x06 => decodeDouble (.movD (fdOf w) (fsOf w))
  | _ => .error .illegal

/-- Primary opcode 0x11, by the rs or fmt field (30_encoding.md R80; 46_reference_isa_fp.md R259). -/
def decodeCop1 (w : Word) : Except DecodeError Instr :=
  match fmtOf w with
  | 0x00 => .ok (.mfc1 (rtOf w) (fsOf w))
  | 0x04 => .ok (.mtc1 (rtOf w) (fsOf w))
  | 0x10 => decodeSingle w
  | 0x11 => decodeDoubleFmt w
  | _ => .error .illegal

/-- The reference decoder, total on words: the opcode map of 30_encoding.md R80. Every other value of these fields is
illegal; bits outside a row's mask are don't-care. -/
def decode (w : Word) : Except DecodeError Instr :=
  match opcodeOf w with
  | 0x00 => decodeSpecial w
  | 0x01 => decodeRegimm w
  | 0x02 => .ok (.j (target26Of w))
  | 0x03 => .ok (.jal (target26Of w))
  | 0x04 => .ok (.beq (rsOf w) (rtOf w) (imm16Of w))
  | 0x05 => .ok (.bne (rsOf w) (rtOf w) (imm16Of w))
  | 0x06 => .ok (.blez (rsOf w) (imm16Of w))
  | 0x07 => .ok (.bgtz (rsOf w) (imm16Of w))
  | 0x08 => .ok (.addi (rtOf w) (rsOf w) (imm16Of w))
  | 0x09 => .ok (.addiu (rtOf w) (rsOf w) (imm16Of w))
  | 0x0A => .ok (.slti (rtOf w) (rsOf w) (imm16Of w))
  | 0x0B => .ok (.sltiu (rtOf w) (rsOf w) (imm16Of w))
  | 0x0C => .ok (.andi (rtOf w) (rsOf w) (imm16Of w))
  | 0x0D => .ok (.ori (rtOf w) (rsOf w) (imm16Of w))
  | 0x0E => .ok (.xori (rtOf w) (rsOf w) (imm16Of w))
  | 0x0F => .ok (.lui (rtOf w) (imm16Of w))
  | 0x11 => decodeCop1 w
  | 0x20 => .ok (.lb (rtOf w) (rsOf w) (imm16Of w))
  | 0x21 => .ok (.lh (rtOf w) (rsOf w) (imm16Of w))
  | 0x22 => .ok (.lwl (rtOf w) (rsOf w) (imm16Of w))
  | 0x23 => .ok (.lw (rtOf w) (rsOf w) (imm16Of w))
  | 0x24 => .ok (.lbu (rtOf w) (rsOf w) (imm16Of w))
  | 0x25 => .ok (.lhu (rtOf w) (rsOf w) (imm16Of w))
  | 0x26 => .ok (.lwr (rtOf w) (rsOf w) (imm16Of w))
  | 0x28 => .ok (.sb (rtOf w) (rsOf w) (imm16Of w))
  | 0x29 => .ok (.sh (rtOf w) (rsOf w) (imm16Of w))
  | 0x2A => .ok (.swl (rtOf w) (rsOf w) (imm16Of w))
  | 0x2B => .ok (.sw (rtOf w) (rsOf w) (imm16Of w))
  | 0x2E => .ok (.swr (rtOf w) (rsOf w) (imm16Of w))
  | 0x31 => .ok (.lwc1 (ftOf w) (rsOf w) (imm16Of w))
  | 0x39 => .ok (.swc1 (ftOf w) (rsOf w) (imm16Of w))
  | _ => .error .illegal

/-! ## Bytes: the big-endian byte order of 20_memory.md R49 and R50 -/

/-- `{b0, b1, b2, b3}`: the word whose bytes stand at rising addresses (20_memory.md R49). -/
def wordOfBytes (b0 b1 b2 b3 : Byte) : Word :=
  b0 ++ b1 ++ b2 ++ b3

/-- Byte `k` of a word in memory order, 0 the most significant (20_memory.md R49). -/
def byteOfWord (w : Word) (k : Nat) : Byte := BitVec.ofNat 8 (bitField w (8 * (3 - k)) 8)

/-- The four bytes of a word, lowest address first. -/
def bytesOfWord (w : Word) : List Byte := [byteOfWord w 0, byteOfWord w 1, byteOfWord w 2, byteOfWord w 3]

/-- Why a byte string yields no instruction. -/
inductive BytesError where
  | truncated
  | word (e : DecodeError)
  deriving DecidableEq, Repr

/-- The decoder on any bytes: an instruction is the first four (30_encoding.md R61), and the rest is returned. -/
def decodeBytes : List Byte → Except BytesError (Instr × List Byte)
  | b0 :: b1 :: b2 :: b3 :: rest =>
    match decode (wordOfBytes b0 b1 b2 b3) with
    | .ok i => .ok (i, rest)
    | .error e => .error (.word e)
  | _ => .error .truncated

/-- The word of an opcode-table instruction whose bits are `w`, bits from `nbits` up being 0. -/
def tableWord (nbits w : Nat) : Word := BitVec.ofNat 32 (w % 2 ^ nbits)

/-- The instruction the decoder reads from a table word laid out as the hardware stores it. -/
def decodeTableWord (nbits w : Nat) : Option Instr :=
  match decodeBytes (bytesOfWord (tableWord nbits w)) with
  | .ok (i, _) => some i
  | .error _ => none

/-! ## The encoder: the canonical word of an instruction, every don't-care bit 0 -/

/-- R and FR formats (30_encoding.md R77). -/
def packR (op f25 f20 f15 f10 funct : Nat) : Word :=
  BitVec.ofNat 6 op ++ BitVec.ofNat 5 f25 ++ BitVec.ofNat 5 f20 ++ BitVec.ofNat 5 f15 ++ BitVec.ofNat 5 f10 ++ BitVec.ofNat 6 funct

/-- I and REGIMM formats (30_encoding.md R77). -/
def packI (op f25 f20 : Nat) (imm : BitVec 16) : Word :=
  BitVec.ofNat 6 op ++ BitVec.ofNat 5 f25 ++ BitVec.ofNat 5 f20 ++ imm

/-- J format (30_encoding.md R77). -/
def packJ (op : Nat) (target : BitVec 26) : Word := BitVec.ofNat 6 op ++ target

/-- The words of an instruction, from the formats of 30_encoding.md R77 and the opcode map of R80. -/
def encode : Instr → Word
  | .sll rd rt shamt => packR 0x00 0 rt rd shamt 0x00
  | .srl rd rt shamt => packR 0x00 0 rt rd shamt 0x02
  | .sra rd rt shamt => packR 0x00 0 rt rd shamt 0x03
  | .sllv rd rt rs => packR 0x00 rs rt rd 0 0x04
  | .srlv rd rt rs => packR 0x00 rs rt rd 0 0x06
  | .srav rd rt rs => packR 0x00 rs rt rd 0 0x07
  | .add rd rs rt => packR 0x00 rs rt rd 0 0x20
  | .addu rd rs rt => packR 0x00 rs rt rd 0 0x21
  | .sub rd rs rt => packR 0x00 rs rt rd 0 0x22
  | .subu rd rs rt => packR 0x00 rs rt rd 0 0x23
  | .and rd rs rt => packR 0x00 rs rt rd 0 0x24
  | .or rd rs rt => packR 0x00 rs rt rd 0 0x25
  | .xor rd rs rt => packR 0x00 rs rt rd 0 0x26
  | .nor rd rs rt => packR 0x00 rs rt rd 0 0x27
  | .slt rd rs rt => packR 0x00 rs rt rd 0 0x2A
  | .sltu rd rs rt => packR 0x00 rs rt rd 0 0x2B
  | .mfhi rd => packR 0x00 0 0 rd 0 0x10
  | .mthi rs => packR 0x00 rs 0 0 0 0x11
  | .mflo rd => packR 0x00 0 0 rd 0 0x12
  | .mtlo rs => packR 0x00 rs 0 0 0 0x13
  | .mult rs rt => packR 0x00 rs rt 0 0 0x18
  | .multu rs rt => packR 0x00 rs rt 0 0 0x19
  | .div rs rt => packR 0x00 rs rt 0 0 0x1A
  | .divu rs rt => packR 0x00 rs rt 0 0 0x1B
  | .addi rt rs imm => packI 0x08 rs rt imm
  | .addiu rt rs imm => packI 0x09 rs rt imm
  | .slti rt rs imm => packI 0x0A rs rt imm
  | .sltiu rt rs imm => packI 0x0B rs rt imm
  | .andi rt rs imm => packI 0x0C rs rt imm
  | .ori rt rs imm => packI 0x0D rs rt imm
  | .xori rt rs imm => packI 0x0E rs rt imm
  | .lui rt imm => packI 0x0F 0 rt imm
  | .j target => packJ 0x02 target
  | .jal target => packJ 0x03 target
  | .jr rs => packR 0x00 rs 0 0 0 0x08
  | .jalr rd rs => packR 0x00 rs 0 rd 0 0x09
  | .beq rs rt imm => packI 0x04 rs rt imm
  | .bne rs rt imm => packI 0x05 rs rt imm
  | .blez rs imm => packI 0x06 rs 0 imm
  | .bgtz rs imm => packI 0x07 rs 0 imm
  | .bltz rs imm => packI 0x01 rs 0x00 imm
  | .bgez rs imm => packI 0x01 rs 0x01 imm
  | .bltzal rs imm => packI 0x01 rs 0x10 imm
  | .bgezal rs imm => packI 0x01 rs 0x11 imm
  | .syscall => packR 0x00 0 0 0 0 0x0C
  | .lb rt rs imm => packI 0x20 rs rt imm
  | .lbu rt rs imm => packI 0x24 rs rt imm
  | .lh rt rs imm => packI 0x21 rs rt imm
  | .lhu rt rs imm => packI 0x25 rs rt imm
  | .lw rt rs imm => packI 0x23 rs rt imm
  | .lwl rt rs imm => packI 0x22 rs rt imm
  | .lwr rt rs imm => packI 0x26 rs rt imm
  | .sb rt rs imm => packI 0x28 rs rt imm
  | .sh rt rs imm => packI 0x29 rs rt imm
  | .sw rt rs imm => packI 0x2B rs rt imm
  | .swl rt rs imm => packI 0x2A rs rt imm
  | .swr rt rs imm => packI 0x2E rs rt imm
  | .mfc1 rt fs => packR 0x11 0x00 rt fs 0 0x00
  | .mtc1 rt fs => packR 0x11 0x04 rt fs 0 0x00
  | .addS fd fs ft => packR 0x11 0x10 ft fs fd 0x00
  | .subS fd fs ft => packR 0x11 0x10 ft fs fd 0x01
  | .mulS fd fs ft => packR 0x11 0x10 ft fs fd 0x02
  | .divS fd fs ft => packR 0x11 0x10 ft fs fd 0x03
  | .movS fd fs => packR 0x11 0x10 0 fs fd 0x06
  | .addD fd fs ft => packR 0x11 0x11 ft fs fd 0x00
  | .subD fd fs ft => packR 0x11 0x11 ft fs fd 0x01
  | .mulD fd fs ft => packR 0x11 0x11 ft fs fd 0x02
  | .divD fd fs ft => packR 0x11 0x11 ft fs fd 0x03
  | .movD fd fs => packR 0x11 0x11 0 fs fd 0x06
  | .lwc1 ft rs imm => packI 0x31 rs ft imm
  | .swc1 ft rs imm => packI 0x39 rs ft imm

/-! ## The opcode table's match and mask columns (spec/opcode_table.json) -/

/-- Whether a word matches a row: `w & mask = match` (45_reference_isa_int.md R157). -/
def rowMatches (w : Word) (row : Word × Word × Mnemonic) : Bool := w &&& row.2.1 == row.1

/-- Shifts, three-register and HI/LO rows: (match, mask, mnemonic). -/
def specialRows : List (Word × Word × Mnemonic) :=
  [(0x00000000, 0xFC00003F, .sll), (0x00000002, 0xFC00003F, .srl), (0x00000003, 0xFC00003F, .sra),
   (0x00000004, 0xFC00003F, .sllv), (0x00000006, 0xFC00003F, .srlv), (0x00000007, 0xFC00003F, .srav),
   (0x00000020, 0xFC00003F, .add), (0x00000021, 0xFC00003F, .addu), (0x00000022, 0xFC00003F, .sub),
   (0x00000023, 0xFC00003F, .subu), (0x00000024, 0xFC00003F, .and), (0x00000025, 0xFC00003F, .or),
   (0x00000026, 0xFC00003F, .xor), (0x00000027, 0xFC00003F, .nor), (0x0000002A, 0xFC00003F, .slt),
   (0x0000002B, 0xFC00003F, .sltu), (0x00000010, 0xFC00003F, .mfhi), (0x00000011, 0xFC00003F, .mthi),
   (0x00000012, 0xFC00003F, .mflo), (0x00000013, 0xFC00003F, .mtlo), (0x00000018, 0xFC00003F, .mult),
   (0x00000019, 0xFC00003F, .multu), (0x0000001A, 0xFC00003F, .div), (0x0000001B, 0xFC00003F, .divu),
   (0x00000008, 0xFC00003F, .jr), (0x00000009, 0xFC00003F, .jalr), (0x0000000C, 0xFC00003F, .syscall)]

/-- Rows by primary opcode alone, and REGIMM rows. -/
def immediateRows : List (Word × Word × Mnemonic) :=
  [(0x20000000, 0xFC000000, .addi), (0x24000000, 0xFC000000, .addiu), (0x28000000, 0xFC000000, .slti),
   (0x2C000000, 0xFC000000, .sltiu), (0x30000000, 0xFC000000, .andi), (0x34000000, 0xFC000000, .ori),
   (0x38000000, 0xFC000000, .xori), (0x3C000000, 0xFC000000, .lui), (0x08000000, 0xFC000000, .j),
   (0x0C000000, 0xFC000000, .jal), (0x10000000, 0xFC000000, .beq), (0x14000000, 0xFC000000, .bne),
   (0x18000000, 0xFC000000, .blez), (0x1C000000, 0xFC000000, .bgtz), (0x04000000, 0xFC1F0000, .bltz),
   (0x04010000, 0xFC1F0000, .bgez), (0x04100000, 0xFC1F0000, .bltzal), (0x04110000, 0xFC1F0000, .bgezal),
   (0x80000000, 0xFC000000, .lb), (0x90000000, 0xFC000000, .lbu), (0x84000000, 0xFC000000, .lh),
   (0x94000000, 0xFC000000, .lhu), (0x8C000000, 0xFC000000, .lw), (0x88000000, 0xFC000000, .lwl),
   (0x98000000, 0xFC000000, .lwr), (0xA0000000, 0xFC000000, .sb), (0xA4000000, 0xFC000000, .sh),
   (0xAC000000, 0xFC000000, .sw), (0xA8000000, 0xFC000000, .swl), (0xB8000000, 0xFC000000, .swr),
   (0xC4000000, 0xFC000000, .lwc1), (0xE4000000, 0xFC000000, .swc1)]

/-- COP1 rows. -/
def cop1Rows : List (Word × Word × Mnemonic) :=
  [(0x44000000, 0xFFE00000, .mfc1), (0x44800000, 0xFFE00000, .mtc1), (0x46000000, 0xFFE0003F, .addS),
   (0x46000001, 0xFFE0003F, .subS), (0x46000002, 0xFFE0003F, .mulS), (0x46000003, 0xFFE0003F, .divS),
   (0x46000006, 0xFFE0003F, .movS), (0x46200000, 0xFFE0003F, .addD), (0x46200001, 0xFFE0003F, .subD),
   (0x46200002, 0xFFE0003F, .mulD), (0x46200003, 0xFFE0003F, .divD), (0x46200006, 0xFFE0003F, .movD)]

/-- All 71 rows. -/
def opcodeTable : List (Word × Word × Mnemonic) := specialRows ++ immediateRows ++ cop1Rows

/-! ## Assembler idioms, which stand for real words (45_reference_isa_int.md R163) -/

/-- `NOP` is `SLL r0,r0,0`, the word 0. -/
def idiomNop : Instr := .sll 0 0 0
/-- `MOVE rd,rs` is `ADDU rd,rs,r0`. -/
def idiomMove (rd rs : RegIdx) : Instr := .addu rd rs 0
/-- `B label` is `BEQ r0,r0,label`. -/
def idiomB (imm : BitVec 16) : Instr := .beq 0 0 imm
/-- `LI rt,imm` is one ADDIU for -32768 <= imm <= 32767, else LUI followed by ORI. -/
def idiomLi (rt : RegIdx) (v : Word) : List Instr :=
  if (BitVec.ofNat 16 v.toNat).signExtend 32 = v then [.addiu rt 0 (BitVec.ofNat 16 v.toNat)]
  else [.lui rt (BitVec.ofNat 16 (v.toNat / 2 ^ 16)), .ori rt rt (BitVec.ofNat 16 v.toNat)]

end Sys2Proof
end

