-- ==== Sys2Proof/Machine/Pipe.lean ====
section
/-! DEFINITION. The pipeline register and its parts (10_state.md section 3, R26 to R37): what travels between two stages. -/

namespace Sys2Proof.Machine

/-- A source register, or the sentinel "no register" (10_state.md R29). -/
inductive SrcRef where
  | none
  | gpr (i : RegIdx)
  | fpr (i : RegIdx)
  deriving DecidableEq, Repr

/-- The per-source bypass selector (10_state.md R32, 30_encoding.md R74). -/
inductive FwdTag where
  | none | fromEX | fromMEM
  deriving DecidableEq, Repr

/-- A subset of the six statistics categories, one membership bit each (10_state.md R31). -/
structure CatSet where
  condBranch : Bool := false
  jal : Bool := false
  jr : Bool := false
  fp : Bool := false
  load : Bool := false
  store : Bool := false
  deriving DecidableEq, Repr

/-- One pipeline register (10_state.md R28 to R34). The defaults are the zero values of R36, so the register written with no
field is `BUBBLE`. -/
structure PipeReg where
  /-- Address of the instruction (R28). -/
  pc : Word := 0
  /-- The raw word (R28). -/
  ins : Word := 0
  /-- Destination register number (R29). -/
  dst : RegIdx := 0
  /-- First source (R29). -/
  src1 : SrcRef := .none
  /-- Second source (R29). -/
  src2 : SrcRef := .none
  /-- Floating-point sources and destination are pairs (R29). -/
  fpDouble : Bool := false
  /-- First operand value (R30). -/
  val1 : DWord := 0
  /-- Second operand value (R30). -/
  val2 : DWord := 0
  /-- Shift amount (R30). -/
  shamt : RegIdx := 0
  /-- Branch offset (R30). -/
  branchOff : Word := 0
  /-- Integer write enable (R31). -/
  writeReg : Bool := false
  /-- Float write enable (R31). -/
  writeFReg : Bool := false
  /-- HI write intent (R31). -/
  hiWrite : Bool := false
  /-- LO write intent (R31). -/
  loWrite : Bool := false
  /-- The ALU handler reads HI (R31). -/
  readsHi : Bool := false
  /-- The ALU handler reads LO (R31). -/
  readsLo : Bool := false
  /-- Memory-operation flag (R31). -/
  memOp : Bool := false
  /-- Partial-word access flag (R31). -/
  subReg : Bool := false
  /-- Statistics categories (R31). -/
  cat : CatSet := {}
  /-- ALU handler (R32). -/
  aluId : Option Mnemonic := Option.none
  /-- Memory handler (R32). -/
  memId : Option Mnemonic := Option.none
  /-- Bypass selector of the first source (R32). -/
  fwd1 : FwdTag := .none
  /-- Bypass selector of the second source (R32). -/
  fwd2 : FwdTag := .none
  /-- This is a control instruction (R33). -/
  bd : Bool := false
  /-- Branch taken (R33). -/
  btaken : Bool := false
  /-- Resolved target (R33). -/
  btgt : Word := 0
  /-- Result, low word (R33). -/
  resLo : Word := 0
  /-- Result, high word (R33). -/
  resHi : Word := 0
  /-- Memory address (R33). -/
  memAddr : Word := 0
  /-- System call (R34). -/
  isSyscall : Bool := false
  /-- Illegal opcode (R34). -/
  isIllegal : Bool := false
  /-- No instruction in this slot (R34, R36). -/
  isNop : Bool := true
  deriving DecidableEq, Repr

/-- The cleared register, "no instruction in this slot" (10_state.md R36). -/
def bubble : PipeReg := {}

/-- The current and the next copy of one boundary (10_state.md R26). -/
structure PipePair where
  cur : PipeReg := bubble
  nxt : PipeReg := bubble
  deriving DecidableEq, Repr

end Sys2Proof.Machine
end

