-- ==== Sys2Proof/Machine/State.lean ====
section
/-! DEFINITION. The whole state of the core as one record (10_state.md R45), the reasons a step can stop, and the state right
after reset (10_state.md R42, 70_reset_and_hazards.md R300). -/

namespace Sys2Proof.Machine

/-- Why the core halted (10_state.md R22, 60_exceptions.md R285). -/
inductive HaltReason where
  /-- An illegal opcode reached Writeback (43_memory_writeback.md R149). -/
  | illegalOpcode
  /-- The system-call collaborator requested exit (43_memory_writeback.md R148). -/
  | syscallExit
  /-- The instruction budget was reached and the pipe has drained (40_clock_fetch.md R94). -/
  | budget
  deriving DecidableEq, Repr

/-- The model faults of 60_exceptions.md R289, in its order. A fault marks a state the spec does not define; it discards the tick
(R288). Every one is SAFE: the model stops and nothing is proved past it. -/
inductive Fault where
  /-- A fetch at an address that is not a multiple of 4: raised by Fetch (40_clock_fetch.md R90). Safe. -/
  | misalignedFetch (a : Word)
  /-- A read of the byte `a`, which has no value: raised by Fetch, a memory handler or the syscall collaborator
  (20_memory.md R55). Safe. -/
  | undefinedRead (a : Word)
  /-- A word the configuration gives no meaning: raised by Decode (30_encoding.md R68; 46_reference_isa_fp.md R255). Safe. -/
  | unmodelledInstruction (w : Word)
  /-- A decoder result that breaks the decoder contract: raised by Decode (30_encoding.md R65), and by Memory for a register
  no such decoder can produce (log entry 11). Safe. -/
  | illFormedDecode (w : Word)
  /-- The unused bypass-tag encoding 11: raised by reading a tag from bits (30_encoding.md R74; log entry 14). Safe. -/
  | illFormedTag
  /-- A control instruction or system call in a delay slot: raised by Execute (42_execute_delay_slot.md R131). Safe. -/
  | controlInDelaySlot (pc : Word)
  /-- Signed overflow in ADD, ADDI or SUB: raised by Execute (45_reference_isa_int.md R162). Safe. -/
  | integerOverflow (pc : Word)
  /-- DIV or DIVU by zero: raised by Execute (45_reference_isa_int.md R162). Safe. -/
  | divideByZero (pc : Word)
  /-- DIV of 0x80000000 by 0xFFFFFFFF: raised by Execute (45_reference_isa_int.md R162). Safe. -/
  | divideOverflow (pc : Word)
  /-- A misaligned load or store: raised by a memory handler in Memory (45_reference_isa_int.md R216). Safe. -/
  | misalignedData (a : Word)
  /-- A system-call service other than 10 and 30: raised by the collaborator in Writeback (46_reference_isa_fp.md R262). Safe. -/
  | unknownSyscall (v : Word)
  /-- Any other reason of a non-reference handler: raised by the stage that calls it (60_exceptions.md R289), and by Memory for an
  identifier that names no memory handler (log entry 10). The spec gives the reason no type: that it is a natural number is a
  DESIGN CHOICE, log entry 19. Safe. -/
  | handlerFault (code : Nat)
  deriving DecidableEq, Repr

/-- Why the model has no transition at all. -/
inductive Refusal where
  /-- An instruction with no meaning yet, by its mnemonic: raised by `exec`'s refused arms only. Safe. -/
  | notModelled (mnemonic : String)
  /-- Before the first reboot there is no tick (70_reset_and_hazards.md R301; 93_implementation_defined.md 1.2): raised by
  `step`. Safe. -/
  | notBooted
  /-- A state with `exit` set is final: no further tick (40_clock_fetch.md R81, R96): raised by `step`. Safe. -/
  | halted (why : Option HaltReason)
  deriving DecidableEq, Repr

/-- The memory store as a list of (address, byte) pairs, addresses strictly rising and below 2^32. An unlisted address has no
value (20_memory.md R55), so no entry can repeat what an unlisted address reads as. The canonical form is `Memory.wf`. -/
abbrev Memory := List Host.Cell

/-- Machine state: 10_state.md R45, plus the model arguments `fwdMode` and `instrBudget` (00_scope.md R8; log entry 2) and the
model's own bookkeeping of the time draws (46_reference_isa_fp.md R261; log entry 7). -/
structure State where
  /-- General registers (R13); `x[0]` is hard-wired to 0 (R14). -/
  x : Vector Word 32
  /-- Floating-point words (R15). -/
  f : Vector Word 32
  /-- HI (R16). -/
  hi : Word
  /-- LO (R16). -/
  lo : Word
  /-- Program counter (R17). -/
  pc : Word
  /-- Fetch to Decode (R26). -/
  ifId : PipePair
  /-- Decode to Execute (R26). -/
  idEx : PipePair
  /-- Execute to Memory (R26). -/
  exMem : PipePair
  /-- Memory to Writeback (R26). -/
  memWb : PipePair
  /-- The hazard decision of the last Decode step (R18). -/
  stall : Bool
  /-- A system call is between Decode and Writeback (R19). -/
  syscallPending : Bool
  /-- An illegal opcode has been decoded (R20). -/
  illegalPending : Bool
  /-- A control instruction has executed and its delay slot has not (R21). -/
  bdPending : Bool
  /-- That control instruction's outcome (R21). -/
  bdTaken : Bool
  /-- That control instruction's target (R21). -/
  bdTarget : Word
  /-- A boot image has been loaded (R22). -/
  booted : Bool
  /-- The global exit flag (R22). -/
  exit : Bool
  /-- Why the core stopped (R22). -/
  haltReason : Option HaltReason
  /-- The recorded model fault (R23). -/
  fault : Option Fault
  /-- Ticks (R24). -/
  nCycles : Nat
  /-- Fetched instructions (R24). -/
  nFetched : Nat
  /-- Conditional branches (R25). -/
  nCondBranch : Nat
  /-- Jump-and-link (R25). -/
  nJal : Nat
  /-- Jump-register (R25). -/
  nJr : Nat
  /-- Floating-point instructions (R25). -/
  nFp : Nat
  /-- Loads (R25). -/
  nLoad : Nat
  /-- Stores (R25). -/
  nStore : Nat
  /-- Memory (R38). -/
  mem : Memory
  /-- The bypass build, a model argument no tick changes (00_scope.md R8; R39). -/
  fwdMode : ForwardMode
  /-- The instruction budget, a model argument no tick changes (00_scope.md R8; R39). -/
  instrBudget : Option Nat
  /-- The model's own: how many time queries the run has made (log entry 7). -/
  draws : Nat
  /-- The model's own: the last time value handed out (log entry 7). -/
  lastTime : DWord
  deriving DecidableEq, Repr

/-- The state after a successful reboot with memory `image`, boot address `bootPC` and the given model arguments
(10_state.md R42, 70_reset_and_hazards.md R300). -/
def State.afterReboot (image : Memory) (bootPC : Word) (mode : ForwardMode) (budget : Option Nat) : State where
  x := Vector.replicate 32 0
  f := Vector.replicate 32 0
  hi := 0
  lo := 0
  pc := bootPC
  ifId := {}
  idEx := {}
  exMem := {}
  memWb := {}
  stall := false
  syscallPending := false
  illegalPending := false
  bdPending := false
  bdTaken := false
  bdTarget := 0
  booted := true
  exit := false
  haltReason := .none
  fault := .none
  nCycles := 0
  nFetched := 0
  nCondBranch := 0
  nJal := 0
  nJr := 0
  nFp := 0
  nLoad := 0
  nStore := 0
  mem := image
  fwdMode := mode
  instrBudget := budget
  draws := 0
  lastTime := 0

/-- The machine right after reset: the state of 10_state.md R42 with the empty image (log entry 4) and the model arguments of
Config (log entries 2 and 3). -/
def State.reset : State := State.afterReboot [] Config.bootPC Config.fwdMode Config.instrBudget

end Sys2Proof.Machine
end

