-- ==== Sys2Proof/Machine/Handlers.lean ====
section
/-! DEFINITION. The contract of the external per-instruction tables (00_scope.md R9, 30_encoding.md R63 to R73): what a decoder
answers, what the handlers take and give, and the record `Cfg` the core is a function of. -/

namespace Sys2Proof.Machine

/-- What the decoder says of a legal word (30_encoding.md R64). Defaults: 45_reference_isa_int.md R157. -/
structure DecodeInfo where
  dst : RegIdx := 0
  src1 : SrcRef := .none
  src2 : SrcRef := .none
  shamt : RegIdx := 0
  fpDouble : Bool := false
  writeReg : Bool := false
  writeFReg : Bool := false
  hiWrite : Bool := false
  loWrite : Bool := false
  readsHi : Bool := false
  readsLo : Bool := false
  memOp : Bool := false
  subReg : Bool := false
  branchOff : Word := 0
  isSyscall : Bool := false
  aluId : Option Mnemonic := Option.none
  memId : Option Mnemonic := Option.none
  cat : CatSet := {}
  deriving DecidableEq, Repr

/-- The decoder's answer (30_encoding.md R64, R66, R68). -/
inductive DecodeResult where
  | legal (d : DecodeInfo)
  | illegal
  | unmodelled (why : String)
  deriving DecidableEq, Repr

/-- The ALU handler's input (30_encoding.md R69). -/
structure AluIn where
  ins : Word
  pc : Word
  val1 : DWord
  val2 : DWord
  shamt : RegIdx
  branchOff : Word
  fpDouble : Bool
  hi : Word
  lo : Word
  deriving DecidableEq, Repr

/-- The ALU handler's output (30_encoding.md R70). The defaults are those of 45_reference_isa_int.md R157, which is also the output
of the null handler (30_encoding.md R73). -/
structure AluOut where
  resLo : Word := 0
  resHi : Word := 0
  memAddr : Word := 0
  bd : Bool := false
  btaken : Bool := false
  btgt : Word := 0
  fault : Option Fault := Option.none
  deriving DecidableEq, Repr

/-- The memory handler's input (30_encoding.md R71). -/
structure MemIn where
  ins : Word
  addr : Word
  val1 : DWord
  val2 : DWord
  resLo : Word
  resHi : Word
  subReg : Bool
  deriving DecidableEq, Repr

/-- The `ok` answer of a memory handler (30_encoding.md R71); its `fault` answer is the error of `Except Fault`. -/
structure MemOut where
  mem : Memory
  resLo : Word
  resHi : Word
  deriving DecidableEq, Repr

/-- What the system-call collaborator is given. 00_scope.md R9 names `SysIn` without its fields, and 60_exceptions.md R282 types the
argument `PipeReg`. DESIGN CHOICE, log entry 8: it is the whole pipeline register of the calling instruction, and everything else the
collaborator must ask for. -/
structure SysIn where
  reg : PipeReg
  deriving DecidableEq, Repr

/-- What the system-call collaborator does in one call, one request after the other. Its requests are the abilities of
60_exceptions.md R282 and no others, so nothing else of the state can change: a word or double word of memory read or written, a
general register read or written, the monotonic time query, a choice the state does not determine, and at the end an exit request
or a fault. The rest of the call may depend on every answer (log entry 8). -/
inductive SysProg where
  /-- The call ends, with or without an exit request. -/
  | done (exitReq : Bool)
  /-- A service the collaborator cannot perform. -/
  | fault (r : Fault)
  | getReg (i : RegIdx) (k : Word → SysProg)
  | setReg (i : RegIdx) (v : Word) (k : SysProg)
  | getWord (a : Word) (k : Word → SysProg)
  | setWord (a : Word) (v : Word) (k : SysProg)
  | getDouble (a : Word) (k : DWord → SysProg)
  | setDouble (a : Word) (v : DWord) (k : SysProg)
  /-- The "monotonic time query". -/
  | getTime (k : DWord → SysProg)
  /-- Any other choice the relation leaves open. The reference services make none (40_clock_fetch.md R97). -/
  | choose (k : Nat → SysProg)

/-- The configuration the core is a function of (00_scope.md R9). `AluId` and `MemId` are `Mnemonic` in every configuration: the spec
fixes them for the reference alone (45_reference_isa_int.md R159). DESIGN CHOICE, log entry 18. `syscall` names the relation
`State.Syscall` (log entry 8). A reboot puts `fwdMode`, `bootPC` and `instrBudget` into State, where no tick changes the first and the
last (log entry 2). -/
structure Cfg where
  decode : Word → DecodeResult
  alu : Mnemonic → AluIn → AluOut
  memop : Mnemonic → MemIn → Memory → Except Fault MemOut
  syscall : SysIn → SysProg
  fwdMode : ForwardMode
  bootPC : Word
  instrBudget : Option Nat

end Sys2Proof.Machine
end

