-- ==== Sys2Proof/Machine/Operands.lean ====
section
/-! DEFINITION. Operand forms: how immediates, targets, addresses and byte lanes come from the word and the operand values
(30_encoding.md R79; 45_reference_isa_int.md R157, R196, R200, R214, R215, R220, R221), the defaults of a decoded word, and the bit
encodings of the core's own selectors (30_encoding.md R74, R76). -/

namespace Sys2Proof.Machine

/-! ## Words and pairs -/

/-- `v[31:0]`. -/
def low32 (v : DWord) : Word := v.extractLsb' 0 32

/-- `v[63:32]`. -/
def high32 (v : DWord) : Word := v.extractLsb' 32 32

/-- `{hi, lo}` (10_state.md R15; 46_reference_isa_fp.md R240). -/
def pair (hi lo : Word) : DWord := hi ++ lo

/-- `zext_64` of a 32-bit operand (10_state.md R30). -/
def zext64 (v : Word) : DWord := v.setWidth 64

/-- `a := val1[31:0]` (45_reference_isa_int.md R157). -/
def AluIn.a (i : AluIn) : Word := low32 i.val1

/-- `b := val2[31:0]` (45_reference_isa_int.md R157). -/
def AluIn.b (i : AluIn) : Word := low32 i.val2

/-- The store data or merge operand `b := val2[31:0]` (45_reference_isa_int.md R157, section 9). -/
def MemIn.b (i : MemIn) : Word := low32 i.val2

/-- A 64-bit result in the two result words: `resHi = p[63:32]`, `resLo = p[31:0]` (45_reference_isa_int.md R184;
46_reference_isa_fp.md R250). -/
def splitResult (p : DWord) : AluOut := { resLo := low32 p, resHi := high32 p }

/-! ## Immediates and targets (30_encoding.md R79) -/

/-- `simm = sext_32(ins[15:0])`. -/
def simm (w : Word) : Word := (imm16Of w).signExtend 32

/-- `zimm = zext_32(ins[15:0])`. -/
def zimm (w : Word) : Word := (imm16Of w).setWidth 32

/-- LUI's `{ins[15:0], 0x0000}`. -/
def luiImm (w : Word) : Word := imm16Of w ++ (0 : BitVec 16)

/-- `branchOff = sext_32({ins[15:0], 00})`. -/
def branchOffset (w : Word) : Word := (imm16Of w ++ (0 : BitVec 2)).signExtend 32

/-- The branch target `pc + 4 + branchOff`. -/
def branchTarget (pc off : Word) : Word := pc + 4 + off

/-- The jump target `{(pc + 4)[31:28], ins[25:0], 00}`. -/
def jumpTarget (pc w : Word) : Word := (pc + 4).extractLsb' 28 4 ++ target26Of w ++ (0 : BitVec 2)

/-- The link value `pc + 8`, the address after the delay slot (45_reference_isa_int.md section 6). -/
def linkValue (pc : Word) : Word := pc + 8

/-- The effective address `a + simm` of a load or store (45_reference_isa_int.md R160). -/
def effectiveAddr (a w : Word) : Word := a + simm w

/-- The amount of a variable shift, `a[4:0]` (30_encoding.md R79). -/
def varAmount (a : Word) : Nat := a.toNat % 32

/-! ## Byte lanes of a word (45_reference_isa_int.md R214, R215, R220, R221) -/

/-- `k = addr[1:0]`. -/
def byteOffset (addr : Word) : Nat := addr.toNat % 4

/-- `v[lo+7:lo]`. -/
def getLane (v : Word) (lo : Nat) : Byte := v.extractLsb' lo 8

/-- `v` with `v[lo+7:lo] <- b`. -/
def setLane (v : Word) (lo : Nat) (b : Byte) : Word := (v &&& ~~~((0xFF : Word) <<< lo)) ||| (b.setWidth 32 <<< lo)

/-- Lanes of the "left" forms, j = 0 to 3 - k: the address `addr + j` and the low bit 24 - 8j of the lane
(45_reference_isa_int.md R214, R220). -/
def leftLanes (addr : Word) : List (Word × Nat) :=
  (List.range (4 - byteOffset addr)).map fun j => (addr + BitVec.ofNat 32 j, 24 - 8 * j)

/-- Lanes of the "right" forms, j = 0 to k: the address `addr - j` and the low bit 8j of the lane
(45_reference_isa_int.md R215, R221). -/
def rightLanes (addr : Word) : List (Word × Nat) :=
  (List.range (byteOffset addr + 1)).map fun j => (addr - BitVec.ofNat 32 j, 8 * j)

/-! ## Decoder defaults (45_reference_isa_int.md R157, R160, sections 3 to 9; 46_reference_isa_fp.md R242) -/

/-- The defaults of `DecodeInfo` for handler `m` and word `w`. -/
def infoDefaults (m : Mnemonic) (w : Word) : DecodeInfo :=
  { shamt := shamtOf w, branchOff := branchOffset w, aluId := some m }

/-- Destination `dst` and the two sources rs, rt (rules R170 to R179). -/
def infoThreeReg (m : Mnemonic) (rd rs rt : RegIdx) (w : Word) : DecodeInfo :=
  { infoDefaults m w with dst := rd, src1 := .gpr rs, src2 := .gpr rt, writeReg := true }

/-- Shift by constant: destination rd, second source rt (R164 to R166). -/
def infoShift (m : Mnemonic) (rd rt : RegIdx) (w : Word) : DecodeInfo :=
  { infoDefaults m w with dst := rd, src2 := .gpr rt, writeReg := true }

/-- Destination rt, source rs (R188 to R194). -/
def infoImm (m : Mnemonic) (rt rs : RegIdx) (w : Word) : DecodeInfo :=
  { infoDefaults m w with dst := rt, src1 := .gpr rs, writeReg := true }

/-- Sources rs and rt, HI and LO written (R184 to R187). -/
def infoMulDiv (m : Mnemonic) (rs rt : RegIdx) (w : Word) : DecodeInfo :=
  { infoDefaults m w with src1 := .gpr rs, src2 := .gpr rt, hiWrite := true, loWrite := true }

/-- A conditional branch on two registers (R200, R201). -/
def infoBranch2 (m : Mnemonic) (rs rt : RegIdx) (w : Word) : DecodeInfo :=
  { infoDefaults m w with src1 := .gpr rs, src2 := .gpr rt, cat := { condBranch := true } }

/-- A conditional branch on one register (R202 to R205). -/
def infoBranch1 (m : Mnemonic) (rs : RegIdx) (w : Word) : DecodeInfo :=
  { infoDefaults m w with src1 := .gpr rs, cat := { condBranch := true } }

/-- A conditional branch that links in x31 (R206, R207). -/
def infoBranchLink (m : Mnemonic) (rs : RegIdx) (w : Word) : DecodeInfo :=
  { infoBranch1 m rs w with dst := 31, writeReg := true }

/-- An integer load (section 8). -/
def infoLoad (m : Mnemonic) (sub : Bool) (rt rs : RegIdx) (w : Word) : DecodeInfo :=
  { infoDefaults m w with
    dst := rt, src1 := .gpr rs, writeReg := true, memOp := true, memId := some m, subReg := sub, cat := { load := true } }

/-- An integer store (section 9). -/
def infoStore (m : Mnemonic) (sub : Bool) (rt rs : RegIdx) (w : Word) : DecodeInfo :=
  { infoDefaults m w with
    src1 := .gpr rs, src2 := .gpr rt, memOp := true, memId := some m, subReg := sub, cat := { store := true } }

/-- An FR-format instruction with two sources (46_reference_isa_fp.md R242). -/
def infoFloat (m : Mnemonic) (double : Bool) (fd fs ft : RegIdx) (w : Word) : DecodeInfo :=
  { infoDefaults m w with
    dst := fd, src1 := .fpr fs, src2 := .fpr ft, writeFReg := true, fpDouble := double, cat := { fp := true } }

/-- An FR-format move: no second source (46_reference_isa_fp.md R242, R249, R254). -/
def infoFloatMove (m : Mnemonic) (double : Bool) (fd fs : RegIdx) (w : Word) : DecodeInfo :=
  { infoDefaults m w with dst := fd, src1 := .fpr fs, writeFReg := true, fpDouble := double, cat := { fp := true } }

/-! ## Bit encodings of the selectors, for a reader that keeps them as bits (30_encoding.md R74, R76) -/

/-- The 2-bit encoding of a forwarding tag (30_encoding.md R74). -/
def FwdTag.toBits : FwdTag → BitVec 2
  | .none => 0b00
  | .fromEX => 0b01
  | .fromMEM => 0b10

/-- A forwarding tag from its bits; 11 is never produced and faults (30_encoding.md R74). -/
def FwdTag.ofBits (b : BitVec 2) : Except Fault FwdTag :=
  match b.toNat with
  | 0 => .ok .none
  | 1 => .ok .fromEX
  | 2 => .ok .fromMEM
  | _ => .error .illFormedTag

/-- The 7-bit encoding `{kind[1:0], idx[4:0]}` of a source reference (30_encoding.md R76). -/
def SrcRef.toBits : SrcRef → BitVec 7
  | .none => 0
  | .gpr i => BitVec.ofNat 7 (32 + i.val)
  | .fpr i => BitVec.ofNat 7 (64 + i.val)

/-- A source reference from its bits; `none` has idx 0 and kind 11 is never produced (30_encoding.md R76). -/
def SrcRef.ofBits (b : BitVec 7) : Option SrcRef :=
  match b.toNat / 32 with
  | 0 => if b = 0 then some .none else Option.none
  | 1 => some (.gpr (Fin.ofNat 32 b.toNat))
  | 2 => some (.fpr (Fin.ofNat 32 b.toNat))
  | _ => Option.none

end Sys2Proof.Machine
end

