-- ==== Sys2Proof/Machine/Flags.lean ====
section
/-! DEFINITION. Overflow and comparison results. The core has no condition-code register (10_state.md R41): each of these is
computed by the ALU handler that uses it. -/

namespace Sys2Proof.Machine

/-- Signed overflow of `a + b`: `a[31] = b[31]` and `t[31] != a[31]` (45_reference_isa_int.md R170). -/
def addOverflows (a b : Word) : Bool := a.msb == b.msb && (a + b).msb != a.msb

/-- Signed overflow of `a - b`: `a[31] != b[31]` and `t[31] != a[31]` (45_reference_isa_int.md R172). -/
def subOverflows (a b : Word) : Bool := a.msb != b.msb && (a - b).msb != a.msb

/-- `sint a < sint b` (45_reference_isa_int.md R178). -/
def signedLess (a b : Word) : Bool := decide (a.toInt < b.toInt)

/-- `a <u b` (45_reference_isa_int.md R179). -/
def unsignedLess (a b : Word) : Bool := decide (a.toNat < b.toNat)

/-- `sint a <= 0` (45_reference_isa_int.md R202). -/
def lessEqZero (a : Word) : Bool := decide (a.toInt ≤ 0)

/-- `sint a > 0` (45_reference_isa_int.md R203). -/
def greaterZero (a : Word) : Bool := decide (0 < a.toInt)

/-- `sint a < 0` (45_reference_isa_int.md R204). -/
def lessZero (a : Word) : Bool := decide (a.toInt < 0)

/-- `sint a >= 0` (45_reference_isa_int.md R205). -/
def greaterEqZero (a : Word) : Bool := decide (0 ≤ a.toInt)

/-- A comparison as a result word: 1 if it holds, else 0 (45_reference_isa_int.md R178). -/
def boolWord (b : Bool) : Word := if b then 1 else 0

/-- The operands on which DIV overflows: `0x80000000 / -1` (45_reference_isa_int.md R162). -/
def divOverflows (a b : Word) : Bool := a == 0x80000000 && b == 0xFFFFFFFF

end Sys2Proof.Machine
end

