-- ==== Sys2Proof/Machine/Ops.lean ====
section
/-! DEFINITION. The named operations over registers and memory, and the core's non-sequential events as shared operations: the
system-call hand-off with its return to `pc + 4`, the illegal-opcode halt, and the delay-slot redirect. The core has no trap
entry and no return from one (60_exceptions.md R291, R292): these three are all there is. -/

namespace Sys2Proof.Machine

/-! ## Plain updates: one field set, everything else kept -/

/-- `pc <- a`. -/
def State.setPc (s : State) (a : Word) : State := { s with pc := a }

/-- `mem <- m`. -/
def State.withMem (s : State) (m : Memory) : State := { s with mem := m }

/-- `IF_ID.nxt <- p` (10_state.md R27). -/
def State.putIfId (s : State) (p : PipeReg) : State := { s with ifId := { s.ifId with nxt := p } }

/-- `ID_EX.nxt <- p` (10_state.md R27). -/
def State.putIdEx (s : State) (p : PipeReg) : State := { s with idEx := { s.idEx with nxt := p } }

/-- `EX_MEM.nxt <- p` (10_state.md R27). -/
def State.putExMem (s : State) (p : PipeReg) : State := { s with exMem := { s.exMem with nxt := p } }

/-- `MEM_WB.nxt <- p` (10_state.md R27). -/
def State.putMemWb (s : State) (p : PipeReg) : State := { s with memWb := { s.memWb with nxt := p } }

/-- `stall <- b` (41_decode_hazard.md R113). -/
def State.setStall (s : State) (b : Bool) : State := { s with stall := b }

/-- `if b then syscallPending <- true` (41_decode_hazard.md R117). -/
def State.raiseSyscall (s : State) (b : Bool) : State := { s with syscallPending := b || s.syscallPending }

/-- `illegalPending <- true` (41_decode_hazard.md R118). -/
def State.raiseIllegal (s : State) : State := { s with illegalPending := true }

/-- `nFetched <- nFetched + 1` (40_clock_fetch.md R89). -/
def State.countFetch (s : State) : State := { s with nFetched := s.nFetched + 1 }

/-- `nCycles <- nCycles + 1` (40_clock_fetch.md R85, R93). -/
def State.countCycle (s : State) : State := { s with nCycles := s.nCycles + 1 }

/-- The next copy becomes the current one; the next copy keeps its value (40_clock_fetch.md R85). -/
def PipePair.commit (p : PipePair) : PipePair := { p with cur := p.nxt }

/-- All four boundaries move at once (40_clock_fetch.md R85). -/
def State.latch (s : State) : State :=
  { s with ifId := s.ifId.commit, idEx := s.idEx.commit, exMem := s.exMem.commit, memWb := s.memWb.commit }

/-- `exit <- true`, `haltReason <- some Budget` (40_clock_fetch.md R94). -/
def State.haltBudget (s : State) : State := { s with exit := true, haltReason := some .budget }

/-! ## Registers -/

/-- Reads a general register; `x[0]` reads as zero (10_state.md R13, R14). -/
def State.readGpr (s : State) (i : RegIdx) : Word := if i = 0 then 0 else s.x[i]

/-- Writeback's raw write of a general register (43_memory_writeback.md R151). -/
def State.writeGpr (s : State) (i : RegIdx) (v : Word) : State := { s with x := s.x.set i v }

/-- `x[0] <- 0` at the end of every WB step that does not halt (43_memory_writeback.md R154). -/
def State.forceX0 (s : State) : State := { s with x := s.x.set 0 0 }

/-- Reads a floating-point word (10_state.md R15). -/
def State.readFpr (s : State) (i : RegIdx) : Word := s.f[i]

/-- Writes a floating-point word (43_memory_writeback.md R152). -/
def State.writeFpr (s : State) (i : RegIdx) (v : Word) : State := { s with f := s.f.set i v }

/-- The pair `{f[i+1], f[i]}` for an even `i` (41_decode_hazard.md R108). -/
def State.readFprPair (s : State) (i : RegIdx) : DWord := pair (s.readFpr (i + 1)) (s.readFpr i)

/-- `f[i] <- lo` and `f[i+1] <- hi` for an even `i` (43_memory_writeback.md R152). -/
def State.writeFprPair (s : State) (i : RegIdx) (hi lo : Word) : State := (s.writeFpr i lo).writeFpr (i + 1) hi

/-- The operand read of Decode's real pass (41_decode_hazard.md R108). -/
def State.readOp (s : State) (double : Bool) : SrcRef → DWord
  | .none => 0
  | .gpr i => zext64 (s.readGpr i)
  | .fpr i => if double then s.readFprPair i else zext64 (s.readFpr i)

/-! ## Memory (20_memory.md). The list is kept sorted, so equal memories are equal lists. -/

/-- The canonical form: addresses strictly rising and below 2^32. -/
def Memory.wf : Memory → Bool
  | [] => true
  | [(a, _)] => a < 2 ^ 32
  | (a, _) :: (b, w) :: m => a < b && Memory.wf ((b, w) :: m)

/-- The byte listed at key `a`, if any. -/
def Memory.lookup : Memory → Nat → Option Byte
  | [], _ => none
  | (b, v) :: m, a => if a = b then some v else Memory.lookup m a

/-- Puts a byte at key `a`, keeping the canonical form. -/
def Memory.insert : Memory → Nat → Byte → Memory
  | [], a, v => [(a, v)]
  | (b, w) :: m, a, v =>
    if a < b then (a, v) :: (b, w) :: m else if a = b then (a, v) :: m else (b, w) :: Memory.insert m a v

/-- The byte at address `a`, or none where it has no value: `Init(a)` is whether this is some byte (20_memory.md R46, R55). -/
def Memory.byte? (m : Memory) (a : Word) : Option Byte := Memory.lookup m a.toNat

/-- `MemRead(a, 1)`; a byte with no value faults (20_memory.md R47, R55). -/
def Memory.read1 (m : Memory) (a : Word) : Except Fault Byte :=
  match Memory.byte? m a with
  | some v => .ok v
  | none => .error (.undefinedRead a)

/-- `MemRead(a, 2) = {byte(a), byte(a+1)}` (20_memory.md R49). -/
def Memory.read2 (m : Memory) (a : Word) : Except Fault (BitVec 16) := do
  let b0 ← Memory.read1 m a
  let b1 ← Memory.read1 m (a + 1)
  return b0 ++ b1

/-- `MemRead(a, 4)`, big-endian; the address wraps modulo 2^32 (20_memory.md R47, R49). -/
def Memory.read4 (m : Memory) (a : Word) : Except Fault Word := do
  let b0 ← Memory.read1 m a
  let b1 ← Memory.read1 m (a + 1)
  let b2 ← Memory.read1 m (a + 2)
  let b3 ← Memory.read1 m (a + 3)
  return wordOfBytes b0 b1 b2 b3

/-- `MemRead(a, 8) = {MemRead(a, 4), MemRead(a+4, 4)}` (20_memory.md R49). -/
def Memory.read8 (m : Memory) (a : Word) : Except Fault DWord := do
  let hi ← Memory.read4 m a
  let lo ← Memory.read4 m (a + 4)
  return pair hi lo

/-- `MemWrite(a, 1, v)` (20_memory.md R47). -/
def Memory.write1 (m : Memory) (a : Word) (v : Byte) : Memory := Memory.insert m a.toNat v

/-- `MemWrite(a, 2, v)` (20_memory.md R47, R49). -/
def Memory.write2 (m : Memory) (a : Word) (v : BitVec 16) : Memory :=
  Memory.write1 (Memory.write1 m a (v.extractLsb' 8 8)) (a + 1) (v.extractLsb' 0 8)

/-- `MemWrite(a, 4, v)` (20_memory.md R47, R49). -/
def Memory.write4 (m : Memory) (a v : Word) : Memory :=
  Memory.write1 (Memory.write1 (Memory.write1 (Memory.write1 m a (byteOfWord v 0)) (a + 1) (byteOfWord v 1))
    (a + 2) (byteOfWord v 2)) (a + 3) (byteOfWord v 3)

/-- `MemWrite(a, 8, v)` (20_memory.md R47, R49). -/
def Memory.write8 (m : Memory) (a : Word) (v : DWord) : Memory :=
  Memory.write4 (Memory.write4 m a (high32 v)) (a + 4) (low32 v)

/-- Reads the given lanes into a word, in order (45_reference_isa_int.md R214, R215). -/
def Memory.readLanes (m : Memory) : List (Word × Nat) → Word → Except Fault Word
  | [], r => .ok r
  | (a, lo) :: ls, r => do
    let v ← Memory.read1 m a
    Memory.readLanes m ls (setLane r lo v)

/-- Writes the given lanes of a word, in order (45_reference_isa_int.md R220, R221). -/
def Memory.writeLanes (m : Memory) : List (Word × Nat) → Word → Memory
  | [], _ => m
  | (a, lo) :: ls, v => Memory.writeLanes (Memory.write1 m a (getLane v lo)) ls v

/-- `a[1:0] = 0`. -/
def aligned4 (a : Word) : Bool := a.toNat % 4 == 0

/-- `a[0] = 0`. -/
def aligned2 (a : Word) : Bool := a.toNat % 2 == 0

/-- `FetchWord(a) = MemRead(a, 4)`, after the alignment check of the Fetch step (20_memory.md R50, R51; 40_clock_fetch.md R89,
R90). -/
def fetchWord (m : Memory) (a : Word) : Except Fault Word :=
  if aligned4 a then Memory.read4 m a else .error (.misalignedFetch a)

/-! ## Non-sequential events -/

/-- The answer of the next monotonic time query: any value at least every earlier one of the run (46_reference_isa_fp.md R261;
log entry 7). -/
def State.nextTime (s : State) : DWord :=
  if s.lastTime ≤ Config.timeDraw s.draws then Config.timeDraw s.draws else s.lastTime

/-- The collaborator's write of a general register: it may change `x[1..31]` only, so a write of `x[0]` is discarded
(60_exceptions.md R282; 43_memory_writeback.md R154). -/
def State.sysWriteGpr (s : State) (i : RegIdx) (v : Word) : State := if i = 0 then s else s.writeGpr i v

/-- `nLoad <- nLoad + 1`, a syscall-emulated load (60_exceptions.md R282). -/
def State.countLoad (s : State) : State := { s with nLoad := s.nLoad + 1 }

/-- `nStore <- nStore + 1`, a syscall-emulated store (60_exceptions.md R282). -/
def State.countStore (s : State) : State := { s with nStore := s.nStore + 1 }

/-- The time query answered `t` (log entry 7). -/
def State.tookTime (s : State) (t : DWord) : State := { s with draws := s.draws + 1, lastTime := t }

/-- A choice was made (log entry 8). -/
def State.tookChoice (s : State) : State := { s with draws := s.draws + 1 }

/-- The collaborator's call, each request served by the core's own register and memory operations, each time query and choice
answered by a free value (60_exceptions.md R282). The answer is the state after the call and the exit request. -/
def SysProg.run : SysProg → State → Except Fault (State × Bool)
  | .done e, s => .ok (s, e)
  | .fault r, _ => .error r
  | .getReg i k, s => (k (s.readGpr i)).run s
  | .setReg i v k, s => k.run (s.sysWriteGpr i v)
  | .getWord a k, s =>
    match Memory.read4 s.mem a with
    | .ok v => (k v).run s.countLoad
    | .error r => .error r
  | .setWord a v k, s => k.run (s.withMem (Memory.write4 s.mem a v)).countStore
  | .getDouble a k, s =>
    match Memory.read8 s.mem a with
    | .ok v => (k v).run s.countLoad
    | .error r => .error r
  | .setDouble a v k, s => k.run (s.withMem (Memory.write8 s.mem a v)).countStore
  | .getTime k, s => (k s.nextTime).run (s.tookTime s.nextTime)
  | .choose k, s => (k (Config.sysChoice s.draws)).run s.tookChoice

/-- The outcomes a call may have when each time query may answer any time at least every earlier one, and each choice any number:
the collaborator as a relation (60_exceptions.md R282; 46_reference_isa_fp.md R261). `SysProg.run` is one of them. -/
def SysProg.Allows : SysProg → State → Except Fault (State × Bool) → Prop
  | .done e, s, o => o = .ok (s, e)
  | .fault r, _, o => o = .error r
  | .getReg i k, s, o => (k (s.readGpr i)).Allows s o
  | .setReg i v k, s, o => k.Allows (s.sysWriteGpr i v) o
  | .getWord a k, s, o =>
    match Memory.read4 s.mem a with
    | .ok v => (k v).Allows s.countLoad o
    | .error r => o = .error r
  | .setWord a v k, s, o => k.Allows (s.withMem (Memory.write4 s.mem a v)).countStore o
  | .getDouble a k, s, o =>
    match Memory.read8 s.mem a with
    | .ok v => (k v).Allows s.countLoad o
    | .error r => o = .error r
  | .setDouble a v k, s, o => k.Allows (s.withMem (Memory.write8 s.mem a v)).countStore o
  | .getTime k, s, o => ∃ t, s.lastTime ≤ t ∧ (k t).Allows (s.tookTime t) o
  | .choose k, s, o => ∃ n, (k n).Allows s.tookChoice o

/-- The relation `Syscall` of 60_exceptions.md R282, the set of 00_scope.md R9: the outcomes of the call of register `q` in state
`s`, each a state and an exit request, or a fault. -/
def State.Syscall (s : State) (sys : SysIn → SysProg) (q : PipeReg) (o : Except Fault (State × Bool)) : Prop :=
  (sys { reg := q }).Allows s o

/-- What Writeback does after the collaborator's call, given the exit request: `pc <- Q.pc + 4` and the pending flag cleared
(43_memory_writeback.md R148). -/
def State.afterSyscall (s : State) (q : PipeReg) (exitReq : Bool) : State :=
  { s with
    pc := q.pc + 4
    syscallPending := false
    exit := exitReq || s.exit
    haltReason := if exitReq then some .syscallExit else s.haltReason }

/-- Writeback goes on from the outcome of the collaborator's call (43_memory_writeback.md R148; 60_exceptions.md R282). -/
def resumeSyscall (q : PipeReg) : Except Fault (State × Bool) → Except Fault State
  | .ok (s, exitReq) => .ok (s.afterSyscall q exitReq)
  | .error r => .error r

/-- Writeback hands a system call to the collaborator, which is entered with no state saved and no mode changed, and returns past
it (43_memory_writeback.md R148; 60_exceptions.md R281). -/
def handSyscall (sys : SysIn → SysProg) (s : State) (q : PipeReg) : Except Fault State :=
  resumeSyscall q ((sys { reg := q }).run s)

/-- The halt on an illegal opcode in Writeback: no register, HI/LO, pc or memory write (43_memory_writeback.md R149). -/
def State.haltIllegal (s : State) : State := { s with exit := true, haltReason := some .illegalOpcode }

/-- The delay-slot controller after a real instruction whose handler answered `bd`, `btaken`, `btgt`: a pending delay slot is
consumed, with the redirect if the branch is taken; otherwise a control instruction sets the controller
(42_execute_delay_slot.md R131 to R133, R137). -/
def State.resolveDelaySlot (s : State) (out : AluOut) : State :=
  if s.bdPending then
    { s with pc := if s.bdTaken then s.bdTarget else s.pc, bdPending := false }
  else if out.bd then
    { s with bdPending := true, bdTaken := out.btaken, bdTarget := out.btgt }
  else s

/-- Each counter named in `c` is incremented by 1 (42_execute_delay_slot.md R136). -/
def State.bump (s : State) (c : CatSet) : State :=
  { s with
    nCondBranch := s.nCondBranch + c.condBranch.toNat
    nJal := s.nJal + c.jal.toNat
    nJr := s.nJr + c.jr.toNat
    nFp := s.nFp + c.fp.toNat
    nLoad := s.nLoad + c.load.toNat
    nStore := s.nStore + c.store.toNat }

/-- Outcome (c) of Writeback: the integer register, the float register or pair, HI and LO, by the write enables
(43_memory_writeback.md R151 to R153, R155). -/
def State.commitReg (s : State) (q : PipeReg) : State :=
  let s1 := if q.writeReg then s.writeGpr q.dst q.resLo else s
  let s2 := if q.writeFReg then
      (if q.fpDouble then s1.writeFprPair q.dst q.resHi q.resLo else s1.writeFpr q.dst q.resLo)
    else s1
  { s2 with hi := if q.hiWrite then q.resHi else s2.hi, lo := if q.loWrite then q.resLo else s2.lo }

/-- A model fault stops the step; otherwise the step answers the next state (60_exceptions.md R288). -/
def toOutcome : Except Fault State → Host.Outcome State Fault Refusal
  | .ok s => .next s
  | .error r => .fault r

end Sys2Proof.Machine
end

