-- ==== Sys2Proof/Machine/Boot.lean ====
section
/-! DEFINITION. Reboot (70_reset_and_hazards.md R300 to R306). A host action between ticks; how a file becomes a byte map is outside
the spec (R306; log entry 4). -/

namespace Sys2Proof.Machine

/-- The reboot's only failure: the image cannot be opened. It is no fault of a run (70_reset_and_hazards.md R302). -/
inductive BootError where
  | bootFailure
  deriving DecidableEq, Repr

/-- A partial byte map as memory in canonical form; a later pair for an address overrides an earlier one
(70_reset_and_hazards.md R306). -/
def imageMemory (image : List (Word × Byte)) : Memory :=
  image.foldl (fun m c => Memory.write1 m c.1 c.2) []

/-- `reboot(image, bootPC)` with the run's model arguments. `none` is an image that cannot be opened: an error and no state
(70_reset_and_hazards.md R300, R302). -/
def reboot (image : Option (List (Word × Byte))) (bootPC : Word) (mode : ForwardMode) (budget : Option Nat) :
    Except BootError State :=
  match image with
  | some m => .ok (State.afterReboot (imageMemory m) bootPC mode budget)
  | none => .error .bootFailure

/-- The reboot of a configuration: its own boot address, bypass build and budget (00_scope.md R9; 70_reset_and_hazards.md R300). -/
def Cfg.reboot (c : Cfg) (image : Option (List (Word × Byte))) : Except BootError State :=
  Sys2Proof.Machine.reboot image c.bootPC c.fwdMode c.instrBudget

/-- Reboot after or during a run, between ticks: the old state is discarded whole (70_reset_and_hazards.md R303). -/
def State.rebootFrom (_old : State) (image : Option (List (Word × Byte))) (bootPC : Word) (mode : ForwardMode)
    (budget : Option Nat) : Except BootError State :=
  reboot image bootPC mode budget

end Sys2Proof.Machine
end

