-- ==== Sys2Proof/Machine/DecodeStage.lean ====
section
/-! DEFINITION. The Decode stage: decoder contract, hazard detector, forwarding selector and the ID step (30_encoding.md R65;
41_decode_hazard.md R98 to R122). -/

namespace Sys2Proof.Machine

/-! ## Predicates on a pipeline register (10_state.md R35) -/

/-- `real(P)` (00_scope.md R10). -/
def PipeReg.real (p : PipeReg) : Bool := !p.isNop

/-- `isLoad(P)`. -/
def PipeReg.isLoad (p : PipeReg) : Bool := p.real && p.memOp && (p.writeReg || p.writeFReg)

/-- `writesGpr(P, i)`. -/
def PipeReg.writesGpr (p : PipeReg) (i : RegIdx) : Bool := p.real && p.writeReg && p.dst == i

/-- `writesFprPair(P, k)`. -/
def PipeReg.writesFprPair (p : PipeReg) (k : Nat) : Bool := p.real && p.writeFReg && p.dst.val / 2 == k

/-- `writesHiLo(P)`. -/
def PipeReg.writesHiLo (p : PipeReg) : Bool := p.real && (p.hiWrite || p.loWrite)

/-! ## The decoder contract (30_encoding.md R65) -/

/-- An `fpr i` source of a double instruction has `i` even. -/
def SrcRef.evenIfFpr : SrcRef → Bool
  | .fpr i => evenReg i
  | .gpr _ => true
  | .none => true

/-- Conditions 1 to 4 of 30_encoding.md R65 (5 places no condition). -/
def DecodeInfo.contract (d : DecodeInfo) : Bool :=
  let hl := d.hiWrite || d.loWrite
  !(d.writeReg && d.writeFReg) && !(d.writeReg && hl) && !(d.writeFReg && hl)
  && (!d.memOp || d.memId.isSome)
  && (!d.isSyscall || (!d.writeReg && !d.writeFReg && !d.hiWrite && !d.loWrite && !d.memOp))
  && (!d.fpDouble || (d.src1.evenIfFpr && d.src2.evenIfFpr && (!d.writeFReg || evenReg d.dst)))

/-! ## The hazard detector and the forwarding selector -/

/-- `match(P, s)`: P writes the register `s` reads, floating-point at pair granularity (41_decode_hazard.md R103). -/
def PipeReg.matchesSrc (p : PipeReg) : SrcRef → Bool
  | .none => false
  | .gpr i => p.writesGpr i
  | .fpr i => p.writesFprPair (i.val / 2)

/-- The selector's choice for an integer source when a bypass exists (41_decode_hazard.md R105). -/
def selectBypass (mode : ForwardMode) (e m : PipeReg) (src : SrcRef) : Bool × FwdTag :=
  if e.matchesSrc src then
    if e.isLoad then (true, .none) else (false, .fromEX)
  else if m.matchesSrc src then
    match mode with
    | .exmem => (false, .fromMEM)
    | .ex => (true, .none)
    | .none => (true, .none)
  else (false, .none)

/-- `sel(s)`: the stall and the tag of one source against Execute's `e` and Memory's `m` (41_decode_hazard.md R101, R104 to R106,
R109, R120). -/
def selectSrc (mode : ForwardMode) (e m : PipeReg) : SrcRef → Bool × FwdTag
  | .none => (false, .none)
  | .fpr i => (e.matchesSrc (.fpr i) || m.matchesSrc (.fpr i), .none)
  | .gpr i =>
    if i = 0 then (false, .none)
    else
      match mode with
      | .none => (e.matchesSrc (.gpr i) || m.matchesSrc (.gpr i), .none)
      | .ex => selectBypass .ex e m (.gpr i)
      | .exmem => selectBypass .exmem e m (.gpr i)

/-- `hiloStall` (41_decode_hazard.md R107). -/
def hiloStall (d : DecodeInfo) (e m : PipeReg) : Bool :=
  (d.hiWrite || d.loWrite || d.readsHi || d.readsLo) && (e.writesHiLo || m.writesHiLo)

/-- `stallDec` (41_decode_hazard.md R110). -/
def stallDecision (mode : ForwardMode) (d : DecodeInfo) (e m : PipeReg) : Bool :=
  (selectSrc mode e m d.src1).1 || (selectSrc mode e m d.src2).1 || hiloStall d e m

/-! ## Outputs -/

/-- The register a fetched word makes: real, its address and the word (40_clock_fetch.md R89). -/
def fetched (a w : Word) : PipeReg := { bubble with isNop := false, pc := a, ins := w }

/-- The decoded register of a legal instruction (41_decode_hazard.md R112). -/
def decoded (i : PipeReg) (d : DecodeInfo) (v1 v2 : DWord) (t1 t2 : FwdTag) : PipeReg :=
  { bubble with
    isNop := false, pc := i.pc, ins := i.ins,
    dst := d.dst, src1 := d.src1, src2 := d.src2, val1 := v1, val2 := v2,
    shamt := d.shamt, fpDouble := d.fpDouble, writeReg := d.writeReg, writeFReg := d.writeFReg,
    hiWrite := d.hiWrite, loWrite := d.loWrite, readsHi := d.readsHi, readsLo := d.readsLo,
    memOp := d.memOp, subReg := d.subReg, branchOff := d.branchOff, cat := d.cat,
    aluId := d.aluId, memId := d.memId, fwd1 := t1, fwd2 := t2,
    isSyscall := d.isSyscall, isIllegal := false }

/-- The inert register of an illegal opcode (41_decode_hazard.md R118). -/
def illegalReg (i : PipeReg) : PipeReg := { bubble with isNop := false, isIllegal := true, pc := i.pc, ins := i.ins }

/-- The ID step for a legal word (41_decode_hazard.md R110 to R117). -/
def idLegal (s : State) (d : DecodeInfo) : State :=
  let i := s.ifId.cur
  let e := s.idEx.cur
  let m := s.exMem.cur
  if stallDecision s.fwdMode d e m then (s.setStall true).putIdEx bubble
  else
    ((s.setStall false).putIdEx (decoded i d (s.readOp d.fpDouble d.src1) (s.readOp d.fpDouble d.src2)
      (selectSrc s.fwdMode e m d.src1).2 (selectSrc s.fwdMode e m d.src2).2)).raiseSyscall d.isSyscall

/-- The ID step (41_decode_hazard.md R120). -/
def idStep (c : Cfg) (s : State) : Except Fault State :=
  let i := s.ifId.cur
  if i.isNop then .ok ((s.setStall false).putIdEx bubble)
  else
    match c.decode i.ins with
    | .unmodelled _ => .error (.unmodelledInstruction i.ins)
    | .illegal => .ok ((s.setStall false).putIdEx (illegalReg i)).raiseIllegal
    | .legal d => if d.contract then .ok (idLegal s d) else .error (.illFormedDecode i.ins)

end Sys2Proof.Machine
end

