-- ==== Sys2Proof/Machine/Execute.lean ====
section
/-! DEFINITION. The Execute stage with the forwarding substitution and the delay-slot controller (42_execute_delay_slot.md R123 to
R137). -/

namespace Sys2Proof.Machine

/-- The forwarding substitution for one operand (42_execute_delay_slot.md R125). -/
def fwdVal (s : State) (t : FwdTag) (v : DWord) : DWord :=
  match t with
  | .none => v
  | .fromEX => zext64 s.exMem.cur.resLo
  | .fromMEM => zext64 s.memWb.cur.resLo

/-- The ALU handler's input (42_execute_delay_slot.md R126, R127). -/
def aluInput (i : PipeReg) (v1 v2 : DWord) (hi lo : Word) : AluIn :=
  { ins := i.ins, pc := i.pc, val1 := v1, val2 := v2, shamt := i.shamt, branchOff := i.branchOff, fpDouble := i.fpDouble,
    hi := hi, lo := lo }

/-- The handler's call, or the null handler's output (42_execute_delay_slot.md R127; 30_encoding.md R73). -/
def aluCall (alu : Mnemonic → AluIn → AluOut) (i : PipeReg) (inp : AluIn) : AluOut :=
  match i.aluId with
  | some id => alu id inp
  | none => {}

/-- The register Execute hands on: the handler's output and the substituted operands copied into it (42_execute_delay_slot.md
R127). -/
def executed (i : PipeReg) (v1 v2 : DWord) (out : AluOut) : PipeReg :=
  { i with
    val1 := v1, val2 := v2, resLo := out.resLo, resHi := out.resHi, memAddr := out.memAddr,
    bd := out.bd, btaken := out.btaken, btgt := out.btgt }

/-- What Execute does with one real instruction that is neither a system call nor illegal, its operands already substituted: the
handler's call, its faults, the counters and the delay-slot controller (42_execute_delay_slot.md R127 to R137). -/
def execPass (alu : Mnemonic → AluIn → AluOut) (i : PipeReg) (v1 v2 : DWord) (s : State) : Except Fault (PipeReg × State) :=
  let out := aluCall alu i (aluInput i v1 v2 s.hi s.lo)
  match out.fault with
  | some r => .error r
  | none =>
    if s.bdPending && out.bd then .error (.controlInDelaySlot i.pc)
    else
      let s' := if i.aluId.isSome then s.bump i.cat else s
      .ok (executed i v1 v2 out, s'.resolveDelaySlot out)

/-- The EX step (42_execute_delay_slot.md R137). -/
def exStep (c : Cfg) (s : State) : Except Fault State :=
  let i := s.idEx.cur
  if i.isNop then .ok (s.putExMem bubble)
  else if i.isIllegal then .ok (s.putExMem i)
  else if i.isSyscall then
    if s.bdPending then .error (.controlInDelaySlot i.pc)
    else .ok (s.putExMem i)
  else
    match execPass c.alu i (fwdVal s i.fwd1 i.val1) (fwdVal s i.fwd2 i.val2) s with
    | .ok (p, s') => .ok (s'.putExMem p)
    | .error r => .error r

end Sys2Proof.Machine
end

