-- ==== Sys2Proof/Machine/MemoryStage.lean ====
section
/-! DEFINITION. The Memory stage (43_memory_writeback.md R141 to R146). -/

namespace Sys2Proof.Machine

/-- The memory handler's input from the pipeline register (43_memory_writeback.md R142). -/
def memInput (p : PipeReg) : MemIn :=
  { ins := p.ins, addr := p.memAddr, val1 := p.val1, val2 := p.val2, resLo := p.resLo, resHi := p.resHi, subReg := p.subReg }

/-- The register with the memory handler's results (43_memory_writeback.md R142, R143). -/
def PipeReg.withResult (p : PipeReg) (lo hi : Word) : PipeReg := { p with resLo := lo, resHi := hi }

/-- What the Memory stage does with one pipeline register: the handler's call for a memory operation, else the register passes
through (43_memory_writeback.md R142 to R146). A memory operation with no handler breaks the decoder contract
(30_encoding.md R65; log entry 11). -/
def memPass (memop : Mnemonic → MemIn → Memory → Except Fault MemOut) (p : PipeReg) (m : Memory) :
    Except Fault (PipeReg × Memory) :=
  if !p.isNop && p.memOp && !p.isIllegal then
    match p.memId with
    | some id =>
      match memop id (memInput p) m with
      | .ok o => .ok (p.withResult o.resLo o.resHi, o.mem)
      | .error r => .error r
    | none => .error (.illFormedDecode p.ins)
  else .ok (p, m)

/-- The MEM step (43_memory_writeback.md R146). -/
def memStep (c : Cfg) (s : State) : Except Fault State :=
  match memPass c.memop s.exMem.cur s.mem with
  | .ok (p, m) => .ok ((s.putMemWb p).withMem m)
  | .error r => .error r

end Sys2Proof.Machine
end

