-- ==== Sys2Proof/Machine/Writeback.lean ====
section
/-! DEFINITION. The Writeback stage (43_memory_writeback.md R147 to R155). -/

namespace Sys2Proof.Machine

/-- The WB step (43_memory_writeback.md R155): a system call, an illegal opcode, a normal instruction or a bubble, and then
`x[0] <- 0` unless it halted on an illegal opcode (R154). -/
def wbStep (c : Cfg) (s : State) : Except Fault State :=
  let q := s.memWb.cur
  if q.isNop then .ok s.forceX0
  else if q.isSyscall then
    match handSyscall c.syscall s q with
    | .ok s' => .ok s'.forceX0
    | .error r => .error r
  else if q.isIllegal then .ok s.haltIllegal
  else .ok (s.commitReg q).forceX0

end Sys2Proof.Machine
end

