-- ==== Sys2Proof/Machine/Solo.lean ====
section
/-! DEFINITION. One instruction's whole passage through Decode, Execute, Memory and Writeback with nothing else in flight, made of
the very pieces the tick is made of (`decoded`, `execPass`, `memPass`, `commitReg`, `handSyscall`). It is the sequential meaning
that 70_reset_and_hazards.md R307 compares the pipe with (log entry 1). At the start `pc` is the instruction's own address; the
passage first advances it by 4, as the fetch does (40_clock_fetch.md R89), and the delay-slot controller then redirects it. -/

namespace Sys2Proof.Machine

/-- The decoded register of the word `w` at address `s.pc`, its operands read from the register files: no instruction is ahead
of it, so no bypass tag is set (41_decode_hazard.md R108, R112). -/
def soloRegister (s : State) (w : Word) (d : DecodeInfo) : PipeReg :=
  decoded (fetched s.pc w) d (s.readOp d.fpDouble d.src1) (s.readOp d.fpDouble d.src2) .none .none

/-- Memory and Writeback of the register `p`, as Execute left it, in the state `s` Execute left. -/
def finishAlone (mem : MemIn → Memory → Except Fault MemOut) (p : PipeReg) (s : State) : Host.Outcome State Fault Refusal :=
  match memPass (fun _ => mem) p s.mem with
  | .error r => .fault r
  | .ok (q, m) => .next ((s.withMem m).commitReg q).forceX0

/-- The passage of an instruction with word `w`, decode fields `d`, ALU handler `alu` and memory handler `mem`. -/
def runAlone (w : Word) (d : DecodeInfo) (alu : AluIn → AluOut) (mem : MemIn → Memory → Except Fault MemOut) (s : State) :
    Host.Outcome State Fault Refusal :=
  match execPass (fun _ => alu) (soloRegister s w d) (s.readOp d.fpDouble d.src1) (s.readOp d.fpDouble d.src2)
      (s.setPc (s.pc + 4)) with
  | .error r => .fault r
  | .ok (p, s1) => finishAlone mem p s1

/-- The passage of a system call: it executes nothing and is handed to the collaborator in Writeback; in a delay slot it faults
(42_execute_delay_slot.md R130, R131; 43_memory_writeback.md R148, R154). -/
def runSyscallAlone (w : Word) (d : DecodeInfo) (sys : SysIn → SysProg) (s : State) :
    Host.Outcome State Fault Refusal :=
  if s.bdPending then .fault (.controlInDelaySlot s.pc)
  else
    match handSyscall sys s (soloRegister s w d) with
    | .ok s' => .next s'.forceX0
    | .error r => .fault r

/-- The memory handler of an instruction that has none: it is never invoked (43_memory_writeback.md R144). -/
def noMemory : MemIn → Memory → Except Fault MemOut := fun i m => .ok { mem := m, resLo := i.resLo, resHi := i.resHi }

end Sys2Proof.Machine
end

