-- ==== Sys2Proof/Machine/Arith.lean ====
section
/-! DEFINITION. Three-register arithmetic and logic (45_reference_isa_int.md R170 to R179).
For each instruction: `info` is the Decode part of its rule, `alu` its Execute part, `mem` its Memory part, and `exec` its whole
passage (`runAlone`). -/

namespace Sys2Proof.Machine

/-- ADD, Decode (45_reference_isa_int.md R170). -/
def infoAdd (rd rs rt : RegIdx) (w : Word) : DecodeInfo :=
  infoThreeReg .add rd rs rt w

/-- ADD, Execute (45_reference_isa_int.md R170). -/
def aluAdd (i : AluIn) : AluOut :=
  if addOverflows i.a i.b then { fault := some (.integerOverflow i.pc) } else { resLo := i.a + i.b }

/-- ADD (45_reference_isa_int.md R170). -/
def execAdd (rd rs rt : RegIdx) (s : State) : Host.Outcome State Fault Refusal :=
  runAlone (encode (.add rd rs rt)) (infoAdd rd rs rt (encode (.add rd rs rt))) aluAdd noMemory s

/-- ADDU, Decode (45_reference_isa_int.md R171). -/
def infoAddu (rd rs rt : RegIdx) (w : Word) : DecodeInfo :=
  infoThreeReg .addu rd rs rt w

/-- ADDU, Execute (45_reference_isa_int.md R171). -/
def aluAddu (i : AluIn) : AluOut :=
  { resLo := i.a + i.b }

/-- ADDU (45_reference_isa_int.md R171). -/
def execAddu (rd rs rt : RegIdx) (s : State) : Host.Outcome State Fault Refusal :=
  runAlone (encode (.addu rd rs rt)) (infoAddu rd rs rt (encode (.addu rd rs rt))) aluAddu noMemory s

/-- SUB, Decode (45_reference_isa_int.md R172). -/
def infoSub (rd rs rt : RegIdx) (w : Word) : DecodeInfo :=
  infoThreeReg .sub rd rs rt w

/-- SUB, Execute (45_reference_isa_int.md R172). -/
def aluSub (i : AluIn) : AluOut :=
  if subOverflows i.a i.b then { fault := some (.integerOverflow i.pc) } else { resLo := i.a - i.b }

/-- SUB (45_reference_isa_int.md R172). -/
def execSub (rd rs rt : RegIdx) (s : State) : Host.Outcome State Fault Refusal :=
  runAlone (encode (.sub rd rs rt)) (infoSub rd rs rt (encode (.sub rd rs rt))) aluSub noMemory s

/-- SUBU, Decode (45_reference_isa_int.md R173). -/
def infoSubu (rd rs rt : RegIdx) (w : Word) : DecodeInfo :=
  infoThreeReg .subu rd rs rt w

/-- SUBU, Execute (45_reference_isa_int.md R173). -/
def aluSubu (i : AluIn) : AluOut :=
  { resLo := i.a - i.b }

/-- SUBU (45_reference_isa_int.md R173). -/
def execSubu (rd rs rt : RegIdx) (s : State) : Host.Outcome State Fault Refusal :=
  runAlone (encode (.subu rd rs rt)) (infoSubu rd rs rt (encode (.subu rd rs rt))) aluSubu noMemory s

/-- AND, Decode (45_reference_isa_int.md R174). -/
def infoAnd (rd rs rt : RegIdx) (w : Word) : DecodeInfo :=
  infoThreeReg .and rd rs rt w

/-- AND, Execute (45_reference_isa_int.md R174). -/
def aluAnd (i : AluIn) : AluOut :=
  { resLo := i.a &&& i.b }

/-- AND (45_reference_isa_int.md R174). -/
def execAnd (rd rs rt : RegIdx) (s : State) : Host.Outcome State Fault Refusal :=
  runAlone (encode (.and rd rs rt)) (infoAnd rd rs rt (encode (.and rd rs rt))) aluAnd noMemory s

/-- OR, Decode (45_reference_isa_int.md R175). -/
def infoOr (rd rs rt : RegIdx) (w : Word) : DecodeInfo :=
  infoThreeReg .or rd rs rt w

/-- OR, Execute (45_reference_isa_int.md R175). -/
def aluOr (i : AluIn) : AluOut :=
  { resLo := i.a ||| i.b }

/-- OR (45_reference_isa_int.md R175). -/
def execOr (rd rs rt : RegIdx) (s : State) : Host.Outcome State Fault Refusal :=
  runAlone (encode (.or rd rs rt)) (infoOr rd rs rt (encode (.or rd rs rt))) aluOr noMemory s

/-- XOR, Decode (45_reference_isa_int.md R176). -/
def infoXor (rd rs rt : RegIdx) (w : Word) : DecodeInfo :=
  infoThreeReg .xor rd rs rt w

/-- XOR, Execute (45_reference_isa_int.md R176). -/
def aluXor (i : AluIn) : AluOut :=
  { resLo := i.a ^^^ i.b }

/-- XOR (45_reference_isa_int.md R176). -/
def execXor (rd rs rt : RegIdx) (s : State) : Host.Outcome State Fault Refusal :=
  runAlone (encode (.xor rd rs rt)) (infoXor rd rs rt (encode (.xor rd rs rt))) aluXor noMemory s

/-- NOR, Decode (45_reference_isa_int.md R177). -/
def infoNor (rd rs rt : RegIdx) (w : Word) : DecodeInfo :=
  infoThreeReg .nor rd rs rt w

/-- NOR, Execute (45_reference_isa_int.md R177). -/
def aluNor (i : AluIn) : AluOut :=
  { resLo := ~~~(i.a ||| i.b) }

/-- NOR (45_reference_isa_int.md R177). -/
def execNor (rd rs rt : RegIdx) (s : State) : Host.Outcome State Fault Refusal :=
  runAlone (encode (.nor rd rs rt)) (infoNor rd rs rt (encode (.nor rd rs rt))) aluNor noMemory s

/-- SLT, Decode (45_reference_isa_int.md R178). -/
def infoSlt (rd rs rt : RegIdx) (w : Word) : DecodeInfo :=
  infoThreeReg .slt rd rs rt w

/-- SLT, Execute (45_reference_isa_int.md R178). -/
def aluSlt (i : AluIn) : AluOut :=
  { resLo := boolWord (signedLess i.a i.b) }

/-- SLT (45_reference_isa_int.md R178). -/
def execSlt (rd rs rt : RegIdx) (s : State) : Host.Outcome State Fault Refusal :=
  runAlone (encode (.slt rd rs rt)) (infoSlt rd rs rt (encode (.slt rd rs rt))) aluSlt noMemory s

/-- SLTU, Decode (45_reference_isa_int.md R179). -/
def infoSltu (rd rs rt : RegIdx) (w : Word) : DecodeInfo :=
  infoThreeReg .sltu rd rs rt w

/-- SLTU, Execute (45_reference_isa_int.md R179). -/
def aluSltu (i : AluIn) : AluOut :=
  { resLo := boolWord (unsignedLess i.a i.b) }

/-- SLTU (45_reference_isa_int.md R179). -/
def execSltu (rd rs rt : RegIdx) (s : State) : Host.Outcome State Fault Refusal :=
  runAlone (encode (.sltu rd rs rt)) (infoSltu rd rs rt (encode (.sltu rd rs rt))) aluSltu noMemory s

end Sys2Proof.Machine
end

