-- ==== Sys2Proof/Machine/Control.lean ====
section
/-! DEFINITION. Control instructions (45_reference_isa_int.md R196 to R207). Each sets `bd`; the core applies the delay slot and the redirect
(42_execute_delay_slot.md R131 to R133).
For each instruction: `info` is the Decode part of its rule, `alu` its Execute part, `mem` its Memory part, and `exec` its whole
passage (`runAlone`). -/

namespace Sys2Proof.Machine

/-- J, Decode (45_reference_isa_int.md R196). -/
def infoJ (w : Word) : DecodeInfo :=
  infoDefaults .j w

/-- J, Execute (45_reference_isa_int.md R196). -/
def aluJ (i : AluIn) : AluOut :=
  { bd := true, btaken := true, btgt := jumpTarget i.pc i.ins }

/-- J (45_reference_isa_int.md R196). -/
def execJ (target : BitVec 26) (s : State) : Host.Outcome State Fault Refusal :=
  runAlone (encode (.j target)) (infoJ (encode (.j target))) aluJ noMemory s

/-- JAL, Decode (45_reference_isa_int.md R197). -/
def infoJal (w : Word) : DecodeInfo :=
  { infoDefaults .jal w with dst := 31, writeReg := true, cat := { jal := true } }

/-- JAL, Execute (45_reference_isa_int.md R197). -/
def aluJal (i : AluIn) : AluOut :=
  { bd := true, btaken := true, btgt := jumpTarget i.pc i.ins, resLo := linkValue i.pc }

/-- JAL (45_reference_isa_int.md R197). -/
def execJal (target : BitVec 26) (s : State) : Host.Outcome State Fault Refusal :=
  runAlone (encode (.jal target)) (infoJal (encode (.jal target))) aluJal noMemory s

/-- JR, Decode (45_reference_isa_int.md R198). -/
def infoJr (rs : RegIdx) (w : Word) : DecodeInfo :=
  { infoDefaults .jr w with src1 := .gpr rs, cat := { jr := true } }

/-- JR, Execute (45_reference_isa_int.md R198). -/
def aluJr (i : AluIn) : AluOut :=
  { bd := true, btaken := true, btgt := i.a }

/-- JR (45_reference_isa_int.md R198). -/
def execJr (rs : RegIdx) (s : State) : Host.Outcome State Fault Refusal :=
  runAlone (encode (.jr rs)) (infoJr rs (encode (.jr rs))) aluJr noMemory s

/-- JALR, Decode (45_reference_isa_int.md R199). -/
def infoJalr (rd rs : RegIdx) (w : Word) : DecodeInfo :=
  { infoDefaults .jalr w with dst := rd, src1 := .gpr rs, writeReg := true, cat := { jal := true, jr := true } }

/-- JALR, Execute (45_reference_isa_int.md R199). -/
def aluJalr (i : AluIn) : AluOut :=
  { bd := true, btaken := true, btgt := i.a, resLo := linkValue i.pc }

/-- JALR (45_reference_isa_int.md R199). -/
def execJalr (rd rs : RegIdx) (s : State) : Host.Outcome State Fault Refusal :=
  runAlone (encode (.jalr rd rs)) (infoJalr rd rs (encode (.jalr rd rs))) aluJalr noMemory s

/-- BEQ, Decode (45_reference_isa_int.md R200). -/
def infoBeq (rs rt : RegIdx) (w : Word) : DecodeInfo :=
  infoBranch2 .beq rs rt w

/-- BEQ, Execute (45_reference_isa_int.md R200). -/
def aluBeq (i : AluIn) : AluOut :=
  { bd := true, btaken := i.a == i.b, btgt := branchTarget i.pc i.branchOff }

/-- BEQ (45_reference_isa_int.md R200). -/
def execBeq (rs rt : RegIdx) (imm : BitVec 16) (s : State) : Host.Outcome State Fault Refusal :=
  runAlone (encode (.beq rs rt imm)) (infoBeq rs rt (encode (.beq rs rt imm))) aluBeq noMemory s

/-- BNE, Decode (45_reference_isa_int.md R201). -/
def infoBne (rs rt : RegIdx) (w : Word) : DecodeInfo :=
  infoBranch2 .bne rs rt w

/-- BNE, Execute (45_reference_isa_int.md R201). -/
def aluBne (i : AluIn) : AluOut :=
  { bd := true, btaken := i.a != i.b, btgt := branchTarget i.pc i.branchOff }

/-- BNE (45_reference_isa_int.md R201). -/
def execBne (rs rt : RegIdx) (imm : BitVec 16) (s : State) : Host.Outcome State Fault Refusal :=
  runAlone (encode (.bne rs rt imm)) (infoBne rs rt (encode (.bne rs rt imm))) aluBne noMemory s

/-- BLEZ, Decode (45_reference_isa_int.md R202). -/
def infoBlez (rs : RegIdx) (w : Word) : DecodeInfo :=
  infoBranch1 .blez rs w

/-- BLEZ, Execute (45_reference_isa_int.md R202). -/
def aluBlez (i : AluIn) : AluOut :=
  { bd := true, btaken := lessEqZero i.a, btgt := branchTarget i.pc i.branchOff }

/-- BLEZ (45_reference_isa_int.md R202). -/
def execBlez (rs : RegIdx) (imm : BitVec 16) (s : State) : Host.Outcome State Fault Refusal :=
  runAlone (encode (.blez rs imm)) (infoBlez rs (encode (.blez rs imm))) aluBlez noMemory s

/-- BGTZ, Decode (45_reference_isa_int.md R203). -/
def infoBgtz (rs : RegIdx) (w : Word) : DecodeInfo :=
  infoBranch1 .bgtz rs w

/-- BGTZ, Execute (45_reference_isa_int.md R203). -/
def aluBgtz (i : AluIn) : AluOut :=
  { bd := true, btaken := greaterZero i.a, btgt := branchTarget i.pc i.branchOff }

/-- BGTZ (45_reference_isa_int.md R203). -/
def execBgtz (rs : RegIdx) (imm : BitVec 16) (s : State) : Host.Outcome State Fault Refusal :=
  runAlone (encode (.bgtz rs imm)) (infoBgtz rs (encode (.bgtz rs imm))) aluBgtz noMemory s

/-- BLTZ, Decode (45_reference_isa_int.md R204). -/
def infoBltz (rs : RegIdx) (w : Word) : DecodeInfo :=
  infoBranch1 .bltz rs w

/-- BLTZ, Execute (45_reference_isa_int.md R204). -/
def aluBltz (i : AluIn) : AluOut :=
  { bd := true, btaken := lessZero i.a, btgt := branchTarget i.pc i.branchOff }

/-- BLTZ (45_reference_isa_int.md R204). -/
def execBltz (rs : RegIdx) (imm : BitVec 16) (s : State) : Host.Outcome State Fault Refusal :=
  runAlone (encode (.bltz rs imm)) (infoBltz rs (encode (.bltz rs imm))) aluBltz noMemory s

/-- BGEZ, Decode (45_reference_isa_int.md R205). -/
def infoBgez (rs : RegIdx) (w : Word) : DecodeInfo :=
  infoBranch1 .bgez rs w

/-- BGEZ, Execute (45_reference_isa_int.md R205). -/
def aluBgez (i : AluIn) : AluOut :=
  { bd := true, btaken := greaterEqZero i.a, btgt := branchTarget i.pc i.branchOff }

/-- BGEZ (45_reference_isa_int.md R205). -/
def execBgez (rs : RegIdx) (imm : BitVec 16) (s : State) : Host.Outcome State Fault Refusal :=
  runAlone (encode (.bgez rs imm)) (infoBgez rs (encode (.bgez rs imm))) aluBgez noMemory s

/-- BLTZAL, Decode (45_reference_isa_int.md R206). -/
def infoBltzal (rs : RegIdx) (w : Word) : DecodeInfo :=
  infoBranchLink .bltzal rs w

/-- BLTZAL, Execute (45_reference_isa_int.md R206). -/
def aluBltzal (i : AluIn) : AluOut :=
  { bd := true, btaken := lessZero i.a, btgt := branchTarget i.pc i.branchOff, resLo := linkValue i.pc }

/-- BLTZAL (45_reference_isa_int.md R206). -/
def execBltzal (rs : RegIdx) (imm : BitVec 16) (s : State) : Host.Outcome State Fault Refusal :=
  runAlone (encode (.bltzal rs imm)) (infoBltzal rs (encode (.bltzal rs imm))) aluBltzal noMemory s

/-- BGEZAL, Decode (45_reference_isa_int.md R207). -/
def infoBgezal (rs : RegIdx) (w : Word) : DecodeInfo :=
  infoBranchLink .bgezal rs w

/-- BGEZAL, Execute (45_reference_isa_int.md R207). -/
def aluBgezal (i : AluIn) : AluOut :=
  { bd := true, btaken := greaterEqZero i.a, btgt := branchTarget i.pc i.branchOff, resLo := linkValue i.pc }

/-- BGEZAL (45_reference_isa_int.md R207). -/
def execBgezal (rs : RegIdx) (imm : BitVec 16) (s : State) : Host.Outcome State Fault Refusal :=
  runAlone (encode (.bgezal rs imm)) (infoBgezal rs (encode (.bgezal rs imm))) aluBgezal noMemory s

end Sys2Proof.Machine
end

