-- ==== Sys2Proof/Machine/Float.lean ====
section
/-! DEFINITION. Floating-point moves, arithmetic, loads and stores (46_reference_isa_fp.md R240 to R257). The arithmetic is the opaque
functions of Config (R241).
For each instruction: `info` is the Decode part of its rule, `alu` its Execute part, `mem` its Memory part, and `exec` its whole
passage (`runAlone`). -/

namespace Sys2Proof.Machine

/-- MFC1, Decode (46_reference_isa_fp.md R243). -/
def infoMfc1 (rt fs : RegIdx) (w : Word) : DecodeInfo :=
  { infoDefaults .mfc1 w with dst := rt, src1 := .fpr fs, writeReg := true, cat := { fp := true } }

/-- MFC1, Execute (46_reference_isa_fp.md R243). -/
def aluMfc1 (i : AluIn) : AluOut :=
  { resLo := i.a }

/-- MFC1 (46_reference_isa_fp.md R243). -/
def execMfc1 (rt fs : RegIdx) (s : State) : Host.Outcome State Fault Refusal :=
  runAlone (encode (.mfc1 rt fs)) (infoMfc1 rt fs (encode (.mfc1 rt fs))) aluMfc1 noMemory s

/-- MTC1, Decode (46_reference_isa_fp.md R244). -/
def infoMtc1 (rt fs : RegIdx) (w : Word) : DecodeInfo :=
  { infoDefaults .mtc1 w with dst := fs, src1 := .gpr rt, writeFReg := true, cat := { fp := true } }

/-- MTC1, Execute (46_reference_isa_fp.md R244). -/
def aluMtc1 (i : AluIn) : AluOut :=
  { resLo := i.a }

/-- MTC1 (46_reference_isa_fp.md R244). -/
def execMtc1 (rt fs : RegIdx) (s : State) : Host.Outcome State Fault Refusal :=
  runAlone (encode (.mtc1 rt fs)) (infoMtc1 rt fs (encode (.mtc1 rt fs))) aluMtc1 noMemory s

/-- ADD.S, Decode (46_reference_isa_fp.md R245). -/
def infoAddS (fd fs ft : RegIdx) (w : Word) : DecodeInfo :=
  infoFloat .addS false fd fs ft w

/-- ADD.S, Execute (46_reference_isa_fp.md R245). -/
def aluAddS (i : AluIn) : AluOut :=
  { resLo := Config.fadd32 i.a i.b }

/-- ADD.S (46_reference_isa_fp.md R245). -/
def execAddS (fd fs ft : RegIdx) (s : State) : Host.Outcome State Fault Refusal :=
  runAlone (encode (.addS fd fs ft)) (infoAddS fd fs ft (encode (.addS fd fs ft))) aluAddS noMemory s

/-- SUB.S, Decode (46_reference_isa_fp.md R246). -/
def infoSubS (fd fs ft : RegIdx) (w : Word) : DecodeInfo :=
  infoFloat .subS false fd fs ft w

/-- SUB.S, Execute (46_reference_isa_fp.md R246). -/
def aluSubS (i : AluIn) : AluOut :=
  { resLo := Config.fsub32 i.a i.b }

/-- SUB.S (46_reference_isa_fp.md R246). -/
def execSubS (fd fs ft : RegIdx) (s : State) : Host.Outcome State Fault Refusal :=
  runAlone (encode (.subS fd fs ft)) (infoSubS fd fs ft (encode (.subS fd fs ft))) aluSubS noMemory s

/-- MUL.S, Decode (46_reference_isa_fp.md R247). -/
def infoMulS (fd fs ft : RegIdx) (w : Word) : DecodeInfo :=
  infoFloat .mulS false fd fs ft w

/-- MUL.S, Execute (46_reference_isa_fp.md R247). -/
def aluMulS (i : AluIn) : AluOut :=
  { resLo := Config.fmul32 i.a i.b }

/-- MUL.S (46_reference_isa_fp.md R247). -/
def execMulS (fd fs ft : RegIdx) (s : State) : Host.Outcome State Fault Refusal :=
  runAlone (encode (.mulS fd fs ft)) (infoMulS fd fs ft (encode (.mulS fd fs ft))) aluMulS noMemory s

/-- DIV.S, Decode (46_reference_isa_fp.md R248). -/
def infoDivS (fd fs ft : RegIdx) (w : Word) : DecodeInfo :=
  infoFloat .divS false fd fs ft w

/-- DIV.S, Execute (46_reference_isa_fp.md R248). -/
def aluDivS (i : AluIn) : AluOut :=
  { resLo := Config.fdiv32 i.a i.b }

/-- DIV.S (46_reference_isa_fp.md R248). -/
def execDivS (fd fs ft : RegIdx) (s : State) : Host.Outcome State Fault Refusal :=
  runAlone (encode (.divS fd fs ft)) (infoDivS fd fs ft (encode (.divS fd fs ft))) aluDivS noMemory s

/-- MOV.S, Decode (46_reference_isa_fp.md R249). -/
def infoMovS (fd fs : RegIdx) (w : Word) : DecodeInfo :=
  infoFloatMove .movS false fd fs w

/-- MOV.S, Execute (46_reference_isa_fp.md R249). -/
def aluMovS (i : AluIn) : AluOut :=
  { resLo := i.a }

/-- MOV.S (46_reference_isa_fp.md R249). -/
def execMovS (fd fs : RegIdx) (s : State) : Host.Outcome State Fault Refusal :=
  runAlone (encode (.movS fd fs)) (infoMovS fd fs (encode (.movS fd fs))) aluMovS noMemory s

/-- ADD.D, Decode (46_reference_isa_fp.md R250). -/
def infoAddD (fd fs ft : RegIdx) (w : Word) : DecodeInfo :=
  infoFloat .addD true fd fs ft w

/-- ADD.D, Execute (46_reference_isa_fp.md R250). -/
def aluAddD (i : AluIn) : AluOut :=
  splitResult (Config.fadd64 i.val1 i.val2)

/-- ADD.D (46_reference_isa_fp.md R250). An odd register has no meaning and faults (46_reference_isa_fp.md R255). -/
def execAddD (fd fs ft : RegIdx) (s : State) : Host.Outcome State Fault Refusal :=
  if Instr.wellFormed (.addD fd fs ft) then
    runAlone (encode (.addD fd fs ft)) (infoAddD fd fs ft (encode (.addD fd fs ft))) aluAddD noMemory s
  else .fault (.unmodelledInstruction (encode (.addD fd fs ft)))

/-- SUB.D, Decode (46_reference_isa_fp.md R251). -/
def infoSubD (fd fs ft : RegIdx) (w : Word) : DecodeInfo :=
  infoFloat .subD true fd fs ft w

/-- SUB.D, Execute (46_reference_isa_fp.md R251). -/
def aluSubD (i : AluIn) : AluOut :=
  splitResult (Config.fsub64 i.val1 i.val2)

/-- SUB.D (46_reference_isa_fp.md R251). An odd register has no meaning and faults (46_reference_isa_fp.md R255). -/
def execSubD (fd fs ft : RegIdx) (s : State) : Host.Outcome State Fault Refusal :=
  if Instr.wellFormed (.subD fd fs ft) then
    runAlone (encode (.subD fd fs ft)) (infoSubD fd fs ft (encode (.subD fd fs ft))) aluSubD noMemory s
  else .fault (.unmodelledInstruction (encode (.subD fd fs ft)))

/-- MUL.D, Decode (46_reference_isa_fp.md R252). -/
def infoMulD (fd fs ft : RegIdx) (w : Word) : DecodeInfo :=
  infoFloat .mulD true fd fs ft w

/-- MUL.D, Execute (46_reference_isa_fp.md R252). -/
def aluMulD (i : AluIn) : AluOut :=
  splitResult (Config.fmul64 i.val1 i.val2)

/-- MUL.D (46_reference_isa_fp.md R252). An odd register has no meaning and faults (46_reference_isa_fp.md R255). -/
def execMulD (fd fs ft : RegIdx) (s : State) : Host.Outcome State Fault Refusal :=
  if Instr.wellFormed (.mulD fd fs ft) then
    runAlone (encode (.mulD fd fs ft)) (infoMulD fd fs ft (encode (.mulD fd fs ft))) aluMulD noMemory s
  else .fault (.unmodelledInstruction (encode (.mulD fd fs ft)))

/-- DIV.D, Decode (46_reference_isa_fp.md R253). -/
def infoDivD (fd fs ft : RegIdx) (w : Word) : DecodeInfo :=
  infoFloat .divD true fd fs ft w

/-- DIV.D, Execute (46_reference_isa_fp.md R253). -/
def aluDivD (i : AluIn) : AluOut :=
  splitResult (Config.fdiv64 i.val1 i.val2)

/-- DIV.D (46_reference_isa_fp.md R253). An odd register has no meaning and faults (46_reference_isa_fp.md R255). -/
def execDivD (fd fs ft : RegIdx) (s : State) : Host.Outcome State Fault Refusal :=
  if Instr.wellFormed (.divD fd fs ft) then
    runAlone (encode (.divD fd fs ft)) (infoDivD fd fs ft (encode (.divD fd fs ft))) aluDivD noMemory s
  else .fault (.unmodelledInstruction (encode (.divD fd fs ft)))

/-- MOV.D, Decode (46_reference_isa_fp.md R254). -/
def infoMovD (fd fs : RegIdx) (w : Word) : DecodeInfo :=
  infoFloatMove .movD true fd fs w

/-- MOV.D, Execute (46_reference_isa_fp.md R254). -/
def aluMovD (i : AluIn) : AluOut :=
  splitResult i.val1

/-- MOV.D (46_reference_isa_fp.md R254). An odd register has no meaning and faults (46_reference_isa_fp.md R255). -/
def execMovD (fd fs : RegIdx) (s : State) : Host.Outcome State Fault Refusal :=
  if Instr.wellFormed (.movD fd fs) then
    runAlone (encode (.movD fd fs)) (infoMovD fd fs (encode (.movD fd fs))) aluMovD noMemory s
  else .fault (.unmodelledInstruction (encode (.movD fd fs)))

/-- LWC1, Decode (46_reference_isa_fp.md R256). -/
def infoLwc1 (ft rs : RegIdx) (w : Word) : DecodeInfo :=
  { infoDefaults .lwc1 w with
    dst := ft, src1 := .gpr rs, writeFReg := true, memOp := true, memId := some .lwc1, cat := { load := true, fp := true } }

/-- LWC1, Execute (46_reference_isa_fp.md R256). -/
def aluLwc1 (i : AluIn) : AluOut :=
  { memAddr := effectiveAddr i.a i.ins }

/-- LWC1, Memory (46_reference_isa_fp.md R256). -/
def memLwc1 (i : MemIn) (m : Memory) : Except Fault MemOut :=
  if aligned4 i.addr then do
    let v ← Memory.read4 m i.addr
    return { mem := m, resLo := v, resHi := 0 }
  else .error (.misalignedData i.addr)

/-- LWC1 (46_reference_isa_fp.md R256). -/
def execLwc1 (ft rs : RegIdx) (imm : BitVec 16) (s : State) : Host.Outcome State Fault Refusal :=
  runAlone (encode (.lwc1 ft rs imm)) (infoLwc1 ft rs (encode (.lwc1 ft rs imm))) aluLwc1 memLwc1 s

/-- SWC1, Decode (46_reference_isa_fp.md R257). -/
def infoSwc1 (ft rs : RegIdx) (w : Word) : DecodeInfo :=
  { infoDefaults .swc1 w with
    src1 := .gpr rs, src2 := .fpr ft, memOp := true, memId := some .swc1, cat := { store := true, fp := true } }

/-- SWC1, Execute (46_reference_isa_fp.md R257). -/
def aluSwc1 (i : AluIn) : AluOut :=
  { memAddr := effectiveAddr i.a i.ins }

/-- SWC1, Memory (46_reference_isa_fp.md R257). -/
def memSwc1 (i : MemIn) (m : Memory) : Except Fault MemOut :=
  if aligned4 i.addr then .ok { mem := Memory.write4 m i.addr i.b, resLo := i.resLo, resHi := i.resHi }
  else .error (.misalignedData i.addr)

/-- SWC1 (46_reference_isa_fp.md R257). -/
def execSwc1 (ft rs : RegIdx) (imm : BitVec 16) (s : State) : Host.Outcome State Fault Refusal :=
  runAlone (encode (.swc1 ft rs imm)) (infoSwc1 ft rs (encode (.swc1 ft rs imm))) aluSwc1 memSwc1 s

end Sys2Proof.Machine
end

