-- ==== Sys2Proof/Machine/Immediate.lean ====
section
/-! DEFINITION. Immediate arithmetic and logic (45_reference_isa_int.md R188 to R195).
For each instruction: `info` is the Decode part of its rule, `alu` its Execute part, `mem` its Memory part, and `exec` its whole
passage (`runAlone`). -/

namespace Sys2Proof.Machine

/-- ADDI, Decode (45_reference_isa_int.md R188). -/
def infoAddi (rt rs : RegIdx) (w : Word) : DecodeInfo :=
  infoImm .addi rt rs w

/-- ADDI, Execute (45_reference_isa_int.md R188). -/
def aluAddi (i : AluIn) : AluOut :=
  if addOverflows i.a (simm i.ins) then { fault := some (.integerOverflow i.pc) } else { resLo := i.a + simm i.ins }

/-- ADDI (45_reference_isa_int.md R188). -/
def execAddi (rt rs : RegIdx) (imm : BitVec 16) (s : State) : Host.Outcome State Fault Refusal :=
  runAlone (encode (.addi rt rs imm)) (infoAddi rt rs (encode (.addi rt rs imm))) aluAddi noMemory s

/-- ADDIU, Decode (45_reference_isa_int.md R189). -/
def infoAddiu (rt rs : RegIdx) (w : Word) : DecodeInfo :=
  infoImm .addiu rt rs w

/-- ADDIU, Execute (45_reference_isa_int.md R189). -/
def aluAddiu (i : AluIn) : AluOut :=
  { resLo := i.a + simm i.ins }

/-- ADDIU (45_reference_isa_int.md R189). -/
def execAddiu (rt rs : RegIdx) (imm : BitVec 16) (s : State) : Host.Outcome State Fault Refusal :=
  runAlone (encode (.addiu rt rs imm)) (infoAddiu rt rs (encode (.addiu rt rs imm))) aluAddiu noMemory s

/-- SLTI, Decode (45_reference_isa_int.md R190). -/
def infoSlti (rt rs : RegIdx) (w : Word) : DecodeInfo :=
  infoImm .slti rt rs w

/-- SLTI, Execute (45_reference_isa_int.md R190). -/
def aluSlti (i : AluIn) : AluOut :=
  { resLo := boolWord (signedLess i.a (simm i.ins)) }

/-- SLTI (45_reference_isa_int.md R190). -/
def execSlti (rt rs : RegIdx) (imm : BitVec 16) (s : State) : Host.Outcome State Fault Refusal :=
  runAlone (encode (.slti rt rs imm)) (infoSlti rt rs (encode (.slti rt rs imm))) aluSlti noMemory s

/-- SLTIU, Decode (45_reference_isa_int.md R191). -/
def infoSltiu (rt rs : RegIdx) (w : Word) : DecodeInfo :=
  infoImm .sltiu rt rs w

/-- SLTIU, Execute (45_reference_isa_int.md R191). -/
def aluSltiu (i : AluIn) : AluOut :=
  { resLo := boolWord (unsignedLess i.a (simm i.ins)) }

/-- SLTIU (45_reference_isa_int.md R191). -/
def execSltiu (rt rs : RegIdx) (imm : BitVec 16) (s : State) : Host.Outcome State Fault Refusal :=
  runAlone (encode (.sltiu rt rs imm)) (infoSltiu rt rs (encode (.sltiu rt rs imm))) aluSltiu noMemory s

/-- ANDI, Decode (45_reference_isa_int.md R192). -/
def infoAndi (rt rs : RegIdx) (w : Word) : DecodeInfo :=
  infoImm .andi rt rs w

/-- ANDI, Execute (45_reference_isa_int.md R192). -/
def aluAndi (i : AluIn) : AluOut :=
  { resLo := i.a &&& zimm i.ins }

/-- ANDI (45_reference_isa_int.md R192). -/
def execAndi (rt rs : RegIdx) (imm : BitVec 16) (s : State) : Host.Outcome State Fault Refusal :=
  runAlone (encode (.andi rt rs imm)) (infoAndi rt rs (encode (.andi rt rs imm))) aluAndi noMemory s

/-- ORI, Decode (45_reference_isa_int.md R193). -/
def infoOri (rt rs : RegIdx) (w : Word) : DecodeInfo :=
  infoImm .ori rt rs w

/-- ORI, Execute (45_reference_isa_int.md R193). -/
def aluOri (i : AluIn) : AluOut :=
  { resLo := i.a ||| zimm i.ins }

/-- ORI (45_reference_isa_int.md R193). -/
def execOri (rt rs : RegIdx) (imm : BitVec 16) (s : State) : Host.Outcome State Fault Refusal :=
  runAlone (encode (.ori rt rs imm)) (infoOri rt rs (encode (.ori rt rs imm))) aluOri noMemory s

/-- XORI, Decode (45_reference_isa_int.md R194). -/
def infoXori (rt rs : RegIdx) (w : Word) : DecodeInfo :=
  infoImm .xori rt rs w

/-- XORI, Execute (45_reference_isa_int.md R194). -/
def aluXori (i : AluIn) : AluOut :=
  { resLo := i.a ^^^ zimm i.ins }

/-- XORI (45_reference_isa_int.md R194). -/
def execXori (rt rs : RegIdx) (imm : BitVec 16) (s : State) : Host.Outcome State Fault Refusal :=
  runAlone (encode (.xori rt rs imm)) (infoXori rt rs (encode (.xori rt rs imm))) aluXori noMemory s

/-- LUI, Decode (45_reference_isa_int.md R195). -/
def infoLui (rt : RegIdx) (w : Word) : DecodeInfo :=
  { infoDefaults .lui w with dst := rt, writeReg := true }

/-- LUI, Execute (45_reference_isa_int.md R195). -/
def aluLui (i : AluIn) : AluOut :=
  { resLo := luiImm i.ins }

/-- LUI (45_reference_isa_int.md R195). -/
def execLui (rt : RegIdx) (imm : BitVec 16) (s : State) : Host.Outcome State Fault Refusal :=
  runAlone (encode (.lui rt imm)) (infoLui rt (encode (.lui rt imm))) aluLui noMemory s

end Sys2Proof.Machine
end

