-- ==== Sys2Proof/Machine/Load.lean ====
section
/-! DEFINITION. Integer loads (45_reference_isa_int.md R209 to R216). A handler checks alignment before any access (R216).
For each instruction: `info` is the Decode part of its rule, `alu` its Execute part, `mem` its Memory part, and `exec` its whole
passage (`runAlone`). -/

namespace Sys2Proof.Machine

/-- LB, Decode (45_reference_isa_int.md R209). -/
def infoLb (rt rs : RegIdx) (w : Word) : DecodeInfo :=
  infoLoad .lb true rt rs w

/-- LB, Execute (45_reference_isa_int.md R209). -/
def aluLb (i : AluIn) : AluOut :=
  { memAddr := effectiveAddr i.a i.ins }

/-- LB, Memory (45_reference_isa_int.md R209). -/
def memLb (i : MemIn) (m : Memory) : Except Fault MemOut := do
  let v ← Memory.read1 m i.addr
  return { mem := m, resLo := v.signExtend 32, resHi := 0 }

/-- LB (45_reference_isa_int.md R209). -/
def execLb (rt rs : RegIdx) (imm : BitVec 16) (s : State) : Host.Outcome State Fault Refusal :=
  runAlone (encode (.lb rt rs imm)) (infoLb rt rs (encode (.lb rt rs imm))) aluLb memLb s

/-- LBU, Decode (45_reference_isa_int.md R210). -/
def infoLbu (rt rs : RegIdx) (w : Word) : DecodeInfo :=
  infoLoad .lbu true rt rs w

/-- LBU, Execute (45_reference_isa_int.md R210). -/
def aluLbu (i : AluIn) : AluOut :=
  { memAddr := effectiveAddr i.a i.ins }

/-- LBU, Memory (45_reference_isa_int.md R210). -/
def memLbu (i : MemIn) (m : Memory) : Except Fault MemOut := do
  let v ← Memory.read1 m i.addr
  return { mem := m, resLo := v.setWidth 32, resHi := 0 }

/-- LBU (45_reference_isa_int.md R210). -/
def execLbu (rt rs : RegIdx) (imm : BitVec 16) (s : State) : Host.Outcome State Fault Refusal :=
  runAlone (encode (.lbu rt rs imm)) (infoLbu rt rs (encode (.lbu rt rs imm))) aluLbu memLbu s

/-- LH, Decode (45_reference_isa_int.md R211). -/
def infoLh (rt rs : RegIdx) (w : Word) : DecodeInfo :=
  infoLoad .lh true rt rs w

/-- LH, Execute (45_reference_isa_int.md R211). -/
def aluLh (i : AluIn) : AluOut :=
  { memAddr := effectiveAddr i.a i.ins }

/-- LH, Memory (45_reference_isa_int.md R211). -/
def memLh (i : MemIn) (m : Memory) : Except Fault MemOut :=
  if aligned2 i.addr then do
    let v ← Memory.read2 m i.addr
    return { mem := m, resLo := v.signExtend 32, resHi := 0 }
  else .error (.misalignedData i.addr)

/-- LH (45_reference_isa_int.md R211). -/
def execLh (rt rs : RegIdx) (imm : BitVec 16) (s : State) : Host.Outcome State Fault Refusal :=
  runAlone (encode (.lh rt rs imm)) (infoLh rt rs (encode (.lh rt rs imm))) aluLh memLh s

/-- LHU, Decode (45_reference_isa_int.md R212). -/
def infoLhu (rt rs : RegIdx) (w : Word) : DecodeInfo :=
  infoLoad .lhu true rt rs w

/-- LHU, Execute (45_reference_isa_int.md R212). -/
def aluLhu (i : AluIn) : AluOut :=
  { memAddr := effectiveAddr i.a i.ins }

/-- LHU, Memory (45_reference_isa_int.md R212). -/
def memLhu (i : MemIn) (m : Memory) : Except Fault MemOut :=
  if aligned2 i.addr then do
    let v ← Memory.read2 m i.addr
    return { mem := m, resLo := v.setWidth 32, resHi := 0 }
  else .error (.misalignedData i.addr)

/-- LHU (45_reference_isa_int.md R212). -/
def execLhu (rt rs : RegIdx) (imm : BitVec 16) (s : State) : Host.Outcome State Fault Refusal :=
  runAlone (encode (.lhu rt rs imm)) (infoLhu rt rs (encode (.lhu rt rs imm))) aluLhu memLhu s

/-- LW, Decode (45_reference_isa_int.md R213). -/
def infoLw (rt rs : RegIdx) (w : Word) : DecodeInfo :=
  infoLoad .lw false rt rs w

/-- LW, Execute (45_reference_isa_int.md R213). -/
def aluLw (i : AluIn) : AluOut :=
  { memAddr := effectiveAddr i.a i.ins }

/-- LW, Memory (45_reference_isa_int.md R213). -/
def memLw (i : MemIn) (m : Memory) : Except Fault MemOut :=
  if aligned4 i.addr then do
    let v ← Memory.read4 m i.addr
    return { mem := m, resLo := v, resHi := 0 }
  else .error (.misalignedData i.addr)

/-- LW (45_reference_isa_int.md R213). -/
def execLw (rt rs : RegIdx) (imm : BitVec 16) (s : State) : Host.Outcome State Fault Refusal :=
  runAlone (encode (.lw rt rs imm)) (infoLw rt rs (encode (.lw rt rs imm))) aluLw memLw s

/-- LWL, Decode (45_reference_isa_int.md R214). -/
def infoLwl (rt rs : RegIdx) (w : Word) : DecodeInfo :=
  { infoLoad .lwl true rt rs w with src2 := .gpr rt }

/-- LWL, Execute (45_reference_isa_int.md R214). -/
def aluLwl (i : AluIn) : AluOut :=
  { memAddr := effectiveAddr i.a i.ins }

/-- LWL, Memory (45_reference_isa_int.md R214). -/
def memLwl (i : MemIn) (m : Memory) : Except Fault MemOut := do
  let v ← Memory.readLanes m (leftLanes i.addr) i.b
  return { mem := m, resLo := v, resHi := 0 }

/-- LWL (45_reference_isa_int.md R214). -/
def execLwl (rt rs : RegIdx) (imm : BitVec 16) (s : State) : Host.Outcome State Fault Refusal :=
  runAlone (encode (.lwl rt rs imm)) (infoLwl rt rs (encode (.lwl rt rs imm))) aluLwl memLwl s

/-- LWR, Decode (45_reference_isa_int.md R215). -/
def infoLwr (rt rs : RegIdx) (w : Word) : DecodeInfo :=
  { infoLoad .lwr true rt rs w with src2 := .gpr rt }

/-- LWR, Execute (45_reference_isa_int.md R215). -/
def aluLwr (i : AluIn) : AluOut :=
  { memAddr := effectiveAddr i.a i.ins }

/-- LWR, Memory (45_reference_isa_int.md R215). -/
def memLwr (i : MemIn) (m : Memory) : Except Fault MemOut := do
  let v ← Memory.readLanes m (rightLanes i.addr) i.b
  return { mem := m, resLo := v, resHi := 0 }

/-- LWR (45_reference_isa_int.md R215). -/
def execLwr (rt rs : RegIdx) (imm : BitVec 16) (s : State) : Host.Outcome State Fault Refusal :=
  runAlone (encode (.lwr rt rs imm)) (infoLwr rt rs (encode (.lwr rt rs imm))) aluLwr memLwr s

end Sys2Proof.Machine
end

