-- ==== Sys2Proof/Machine/MulDiv.lean ====
section
/-! DEFINITION. HI/LO moves, multiply and divide (45_reference_isa_int.md R180 to R187).
For each instruction: `info` is the Decode part of its rule, `alu` its Execute part, `mem` its Memory part, and `exec` its whole
passage (`runAlone`). -/

namespace Sys2Proof.Machine

/-- MFHI, Decode (45_reference_isa_int.md R180). -/
def infoMfhi (rd : RegIdx) (w : Word) : DecodeInfo :=
  { infoDefaults .mfhi w with dst := rd, writeReg := true, readsHi := true }

/-- MFHI, Execute (45_reference_isa_int.md R180). -/
def aluMfhi (i : AluIn) : AluOut :=
  { resLo := i.hi }

/-- MFHI (45_reference_isa_int.md R180). -/
def execMfhi (rd : RegIdx) (s : State) : Host.Outcome State Fault Refusal :=
  runAlone (encode (.mfhi rd)) (infoMfhi rd (encode (.mfhi rd))) aluMfhi noMemory s

/-- MTHI, Decode (45_reference_isa_int.md R181). -/
def infoMthi (rs : RegIdx) (w : Word) : DecodeInfo :=
  { infoDefaults .mthi w with src1 := .gpr rs, hiWrite := true }

/-- MTHI, Execute (45_reference_isa_int.md R181). -/
def aluMthi (i : AluIn) : AluOut :=
  { resHi := i.a }

/-- MTHI (45_reference_isa_int.md R181). -/
def execMthi (rs : RegIdx) (s : State) : Host.Outcome State Fault Refusal :=
  runAlone (encode (.mthi rs)) (infoMthi rs (encode (.mthi rs))) aluMthi noMemory s

/-- MFLO, Decode (45_reference_isa_int.md R182). -/
def infoMflo (rd : RegIdx) (w : Word) : DecodeInfo :=
  { infoDefaults .mflo w with dst := rd, writeReg := true, readsLo := true }

/-- MFLO, Execute (45_reference_isa_int.md R182). -/
def aluMflo (i : AluIn) : AluOut :=
  { resLo := i.lo }

/-- MFLO (45_reference_isa_int.md R182). -/
def execMflo (rd : RegIdx) (s : State) : Host.Outcome State Fault Refusal :=
  runAlone (encode (.mflo rd)) (infoMflo rd (encode (.mflo rd))) aluMflo noMemory s

/-- MTLO, Decode (45_reference_isa_int.md R183). -/
def infoMtlo (rs : RegIdx) (w : Word) : DecodeInfo :=
  { infoDefaults .mtlo w with src1 := .gpr rs, loWrite := true }

/-- MTLO, Execute (45_reference_isa_int.md R183). -/
def aluMtlo (i : AluIn) : AluOut :=
  { resLo := i.a }

/-- MTLO (45_reference_isa_int.md R183). -/
def execMtlo (rs : RegIdx) (s : State) : Host.Outcome State Fault Refusal :=
  runAlone (encode (.mtlo rs)) (infoMtlo rs (encode (.mtlo rs))) aluMtlo noMemory s

/-- MULT, Decode (45_reference_isa_int.md R184). -/
def infoMult (rs rt : RegIdx) (w : Word) : DecodeInfo :=
  infoMulDiv .mult rs rt w

/-- MULT, Execute (45_reference_isa_int.md R184). -/
def aluMult (i : AluIn) : AluOut :=
  splitResult (BitVec.ofInt 64 (i.a.toInt * i.b.toInt))

/-- MULT (45_reference_isa_int.md R184). -/
def execMult (rs rt : RegIdx) (s : State) : Host.Outcome State Fault Refusal :=
  runAlone (encode (.mult rs rt)) (infoMult rs rt (encode (.mult rs rt))) aluMult noMemory s

/-- MULTU, Decode (45_reference_isa_int.md R185). -/
def infoMultu (rs rt : RegIdx) (w : Word) : DecodeInfo :=
  infoMulDiv .multu rs rt w

/-- MULTU, Execute (45_reference_isa_int.md R185). -/
def aluMultu (i : AluIn) : AluOut :=
  splitResult (BitVec.ofNat 64 (i.a.toNat * i.b.toNat))

/-- MULTU (45_reference_isa_int.md R185). -/
def execMultu (rs rt : RegIdx) (s : State) : Host.Outcome State Fault Refusal :=
  runAlone (encode (.multu rs rt)) (infoMultu rs rt (encode (.multu rs rt))) aluMultu noMemory s

/-- DIV, Decode (45_reference_isa_int.md R186). -/
def infoDiv (rs rt : RegIdx) (w : Word) : DecodeInfo :=
  infoMulDiv .div rs rt w

/-- DIV, Execute (45_reference_isa_int.md R186). -/
def aluDiv (i : AluIn) : AluOut :=
  if i.b = 0 then { fault := some (.divideByZero i.pc) }
  else if divOverflows i.a i.b then { fault := some (.divideOverflow i.pc) }
  else
    let q := i.a.toInt.tdiv i.b.toInt
    { resLo := BitVec.ofInt 32 q, resHi := BitVec.ofInt 32 (i.a.toInt - q * i.b.toInt) }

/-- DIV (45_reference_isa_int.md R186). -/
def execDiv (rs rt : RegIdx) (s : State) : Host.Outcome State Fault Refusal :=
  runAlone (encode (.div rs rt)) (infoDiv rs rt (encode (.div rs rt))) aluDiv noMemory s

/-- DIVU, Decode (45_reference_isa_int.md R187). -/
def infoDivu (rs rt : RegIdx) (w : Word) : DecodeInfo :=
  infoMulDiv .divu rs rt w

/-- DIVU, Execute (45_reference_isa_int.md R187). -/
def aluDivu (i : AluIn) : AluOut :=
  if i.b = 0 then { fault := some (.divideByZero i.pc) }
  else { resLo := BitVec.ofNat 32 (i.a.toNat / i.b.toNat), resHi := BitVec.ofNat 32 (i.a.toNat % i.b.toNat) }

/-- DIVU (45_reference_isa_int.md R187). -/
def execDivu (rs rt : RegIdx) (s : State) : Host.Outcome State Fault Refusal :=
  runAlone (encode (.divu rs rt)) (infoDivu rs rt (encode (.divu rs rt))) aluDivu noMemory s

end Sys2Proof.Machine
end

