-- ==== Sys2Proof/Machine/Shift.lean ====
section
/-! DEFINITION. Shifts by a constant and by a register (45_reference_isa_int.md R164 to R169).
For each instruction: `info` is the Decode part of its rule, `alu` its Execute part, `mem` its Memory part, and `exec` its whole
passage (`runAlone`). -/

namespace Sys2Proof.Machine

/-- SLL, Decode (45_reference_isa_int.md R164). -/
def infoSll (rd rt : RegIdx) (w : Word) : DecodeInfo :=
  infoShift .sll rd rt w

/-- SLL, Execute (45_reference_isa_int.md R164). -/
def aluSll (i : AluIn) : AluOut :=
  { resLo := i.b <<< i.shamt.val }

/-- SLL (45_reference_isa_int.md R164). -/
def execSll (rd rt shamt : RegIdx) (s : State) : Host.Outcome State Fault Refusal :=
  runAlone (encode (.sll rd rt shamt)) (infoSll rd rt (encode (.sll rd rt shamt))) aluSll noMemory s

/-- SRL, Decode (45_reference_isa_int.md R165). -/
def infoSrl (rd rt : RegIdx) (w : Word) : DecodeInfo :=
  infoShift .srl rd rt w

/-- SRL, Execute (45_reference_isa_int.md R165). -/
def aluSrl (i : AluIn) : AluOut :=
  { resLo := i.b >>> i.shamt.val }

/-- SRL (45_reference_isa_int.md R165). -/
def execSrl (rd rt shamt : RegIdx) (s : State) : Host.Outcome State Fault Refusal :=
  runAlone (encode (.srl rd rt shamt)) (infoSrl rd rt (encode (.srl rd rt shamt))) aluSrl noMemory s

/-- SRA, Decode (45_reference_isa_int.md R166). -/
def infoSra (rd rt : RegIdx) (w : Word) : DecodeInfo :=
  infoShift .sra rd rt w

/-- SRA, Execute (45_reference_isa_int.md R166). -/
def aluSra (i : AluIn) : AluOut :=
  { resLo := i.b.sshiftRight i.shamt.val }

/-- SRA (45_reference_isa_int.md R166). -/
def execSra (rd rt shamt : RegIdx) (s : State) : Host.Outcome State Fault Refusal :=
  runAlone (encode (.sra rd rt shamt)) (infoSra rd rt (encode (.sra rd rt shamt))) aluSra noMemory s

/-- SLLV, Decode (45_reference_isa_int.md R167). -/
def infoSllv (rd rt rs : RegIdx) (w : Word) : DecodeInfo :=
  infoThreeReg .sllv rd rs rt w

/-- SLLV, Execute (45_reference_isa_int.md R167). -/
def aluSllv (i : AluIn) : AluOut :=
  { resLo := i.b <<< varAmount i.a }

/-- SLLV (45_reference_isa_int.md R167). -/
def execSllv (rd rt rs : RegIdx) (s : State) : Host.Outcome State Fault Refusal :=
  runAlone (encode (.sllv rd rt rs)) (infoSllv rd rt rs (encode (.sllv rd rt rs))) aluSllv noMemory s

/-- SRLV, Decode (45_reference_isa_int.md R168). -/
def infoSrlv (rd rt rs : RegIdx) (w : Word) : DecodeInfo :=
  infoThreeReg .srlv rd rs rt w

/-- SRLV, Execute (45_reference_isa_int.md R168). -/
def aluSrlv (i : AluIn) : AluOut :=
  { resLo := i.b >>> varAmount i.a }

/-- SRLV (45_reference_isa_int.md R168). -/
def execSrlv (rd rt rs : RegIdx) (s : State) : Host.Outcome State Fault Refusal :=
  runAlone (encode (.srlv rd rt rs)) (infoSrlv rd rt rs (encode (.srlv rd rt rs))) aluSrlv noMemory s

/-- SRAV, Decode (45_reference_isa_int.md R169). -/
def infoSrav (rd rt rs : RegIdx) (w : Word) : DecodeInfo :=
  infoThreeReg .srav rd rs rt w

/-- SRAV, Execute (45_reference_isa_int.md R169). -/
def aluSrav (i : AluIn) : AluOut :=
  { resLo := i.b.sshiftRight (varAmount i.a) }

/-- SRAV (45_reference_isa_int.md R169). -/
def execSrav (rd rt rs : RegIdx) (s : State) : Host.Outcome State Fault Refusal :=
  runAlone (encode (.srav rd rt rs)) (infoSrav rd rt rs (encode (.srav rd rt rs))) aluSrav noMemory s

end Sys2Proof.Machine
end

