-- ==== Sys2Proof/Machine/Store.lean ====
section
/-! DEFINITION. Integer stores (45_reference_isa_int.md R216 to R221). A handler checks alignment before any access (R216).
For each instruction: `info` is the Decode part of its rule, `alu` its Execute part, `mem` its Memory part, and `exec` its whole
passage (`runAlone`). -/

namespace Sys2Proof.Machine

/-- SB, Decode (45_reference_isa_int.md R217). -/
def infoSb (rt rs : RegIdx) (w : Word) : DecodeInfo :=
  infoStore .sb true rt rs w

/-- SB, Execute (45_reference_isa_int.md R217). -/
def aluSb (i : AluIn) : AluOut :=
  { memAddr := effectiveAddr i.a i.ins }

/-- SB, Memory (45_reference_isa_int.md R217). -/
def memSb (i : MemIn) (m : Memory) : Except Fault MemOut :=
  .ok { mem := Memory.write1 m i.addr (i.b.extractLsb' 0 8), resLo := i.resLo, resHi := i.resHi }

/-- SB (45_reference_isa_int.md R217). -/
def execSb (rt rs : RegIdx) (imm : BitVec 16) (s : State) : Host.Outcome State Fault Refusal :=
  runAlone (encode (.sb rt rs imm)) (infoSb rt rs (encode (.sb rt rs imm))) aluSb memSb s

/-- SH, Decode (45_reference_isa_int.md R218). -/
def infoSh (rt rs : RegIdx) (w : Word) : DecodeInfo :=
  infoStore .sh true rt rs w

/-- SH, Execute (45_reference_isa_int.md R218). -/
def aluSh (i : AluIn) : AluOut :=
  { memAddr := effectiveAddr i.a i.ins }

/-- SH, Memory (45_reference_isa_int.md R218). -/
def memSh (i : MemIn) (m : Memory) : Except Fault MemOut :=
  if aligned2 i.addr then .ok { mem := Memory.write2 m i.addr (i.b.extractLsb' 0 16), resLo := i.resLo, resHi := i.resHi }
  else .error (.misalignedData i.addr)

/-- SH (45_reference_isa_int.md R218). -/
def execSh (rt rs : RegIdx) (imm : BitVec 16) (s : State) : Host.Outcome State Fault Refusal :=
  runAlone (encode (.sh rt rs imm)) (infoSh rt rs (encode (.sh rt rs imm))) aluSh memSh s

/-- SW, Decode (45_reference_isa_int.md R219). -/
def infoSw (rt rs : RegIdx) (w : Word) : DecodeInfo :=
  infoStore .sw false rt rs w

/-- SW, Execute (45_reference_isa_int.md R219). -/
def aluSw (i : AluIn) : AluOut :=
  { memAddr := effectiveAddr i.a i.ins }

/-- SW, Memory (45_reference_isa_int.md R219). -/
def memSw (i : MemIn) (m : Memory) : Except Fault MemOut :=
  if aligned4 i.addr then .ok { mem := Memory.write4 m i.addr i.b, resLo := i.resLo, resHi := i.resHi }
  else .error (.misalignedData i.addr)

/-- SW (45_reference_isa_int.md R219). -/
def execSw (rt rs : RegIdx) (imm : BitVec 16) (s : State) : Host.Outcome State Fault Refusal :=
  runAlone (encode (.sw rt rs imm)) (infoSw rt rs (encode (.sw rt rs imm))) aluSw memSw s

/-- SWL, Decode (45_reference_isa_int.md R220). -/
def infoSwl (rt rs : RegIdx) (w : Word) : DecodeInfo :=
  infoStore .swl true rt rs w

/-- SWL, Execute (45_reference_isa_int.md R220). -/
def aluSwl (i : AluIn) : AluOut :=
  { memAddr := effectiveAddr i.a i.ins }

/-- SWL, Memory (45_reference_isa_int.md R220). -/
def memSwl (i : MemIn) (m : Memory) : Except Fault MemOut :=
  .ok { mem := Memory.writeLanes m (leftLanes i.addr) i.b, resLo := i.resLo, resHi := i.resHi }

/-- SWL (45_reference_isa_int.md R220). -/
def execSwl (rt rs : RegIdx) (imm : BitVec 16) (s : State) : Host.Outcome State Fault Refusal :=
  runAlone (encode (.swl rt rs imm)) (infoSwl rt rs (encode (.swl rt rs imm))) aluSwl memSwl s

/-- SWR, Decode (45_reference_isa_int.md R221). -/
def infoSwr (rt rs : RegIdx) (w : Word) : DecodeInfo :=
  infoStore .swr true rt rs w

/-- SWR, Execute (45_reference_isa_int.md R221). -/
def aluSwr (i : AluIn) : AluOut :=
  { memAddr := effectiveAddr i.a i.ins }

/-- SWR, Memory (45_reference_isa_int.md R221). -/
def memSwr (i : MemIn) (m : Memory) : Except Fault MemOut :=
  .ok { mem := Memory.writeLanes m (rightLanes i.addr) i.b, resLo := i.resLo, resHi := i.resHi }

/-- SWR (45_reference_isa_int.md R221). -/
def execSwr (rt rs : RegIdx) (imm : BitVec 16) (s : State) : Host.Outcome State Fault Refusal :=
  runAlone (encode (.swr rt rs imm)) (infoSwr rt rs (encode (.swr rt rs imm))) aluSwr memSwr s

end Sys2Proof.Machine
end

