-- ==== Sys2Proof/Machine/System.lean ====
section
/-! DEFINITION. SYSCALL and the reference system-call services (45_reference_isa_int.md R208; 46_reference_isa_fp.md R260 to R262). -/

namespace Sys2Proof.Machine

/-- The reference collaborator (46_reference_isa_fp.md R260 to R262): the service number is `x[2]`; 10 requests exit, 30 writes the
time to `x[4]` (low) and `x[5]` (high), any other number faults. It makes no emulated load or store. -/
def refSyscall (_ : SysIn) : SysProg :=
  .getReg 2 fun v =>
    if v = 10 then .done true
    else if v = 30 then .getTime fun t => .setReg 4 (low32 t) (.setReg 5 (high32 t) (.done false))
    else .fault (.unknownSyscall v)

/-- SYSCALL, Decode (45_reference_isa_int.md R208). -/
def infoSyscall (w : Word) : DecodeInfo :=
  { infoDefaults .syscall w with isSyscall := true, aluId := Option.none }

/-- SYSCALL executes nothing (42_execute_delay_slot.md R130); this handler is never invoked (45_reference_isa_int.md R208). -/
def aluSyscall (_ : AluIn) : AluOut := {}

/-- SYSCALL (45_reference_isa_int.md R208; 43_memory_writeback.md R148; 46_reference_isa_fp.md R262). -/
def execSyscall (s : State) : Host.Outcome State Fault Refusal :=
  runSyscallAlone (encode .syscall) (infoSyscall (encode .syscall)) refSyscall s

end Sys2Proof.Machine
end

