-- ==== Sys2Proof/Machine/Fetch.lean ====
section
/-! DEFINITION. The Fetch step, the commit and the budget check (40_clock_fetch.md R85 to R94). -/

namespace Sys2Proof.Machine

/-- `budgetReached` (40_clock_fetch.md R87, R94). -/
def State.budgetReached (s : State) : Bool :=
  match s.instrBudget with
  | some n => n ≤ s.nFetched
  | none => false

/-- `fetchEn`, with the branch interlock always on (40_clock_fetch.md R87, R88). -/
def State.fetchEn (s : State) : Bool :=
  !s.stall && !s.syscallPending && !s.illegalPending && !s.bdPending && !s.budgetReached

/-- The IF step (40_clock_fetch.md R89): fetch, or hold a stalled instruction, or clear. -/
def ifStep (s : State) : Except Fault State :=
  if s.fetchEn then
    match fetchWord s.mem s.pc with
    | .ok w => .ok ((s.putIfId (fetched s.pc w)).setPc (s.pc + 4)).countFetch
    | .error r => .error r
  else if s.stall then .ok (s.putIfId s.ifId.cur)
  else .ok (s.putIfId bubble)

/-- All four current copies are bubbles (40_clock_fetch.md R94). -/
def State.drained (s : State) : Bool := s.ifId.cur.isNop && s.idEx.cur.isNop && s.exMem.cur.isNop && s.memWb.cur.isNop

/-- The budget halt, checked at the commit (40_clock_fetch.md R94). -/
def State.budgetCheck (s : State) : State :=
  if s.budgetReached && s.drained && !s.syscallPending then s.haltBudget else s

/-- Phase 1: all four boundaries move at once and the tick is counted (40_clock_fetch.md R85). -/
def State.commit (s : State) : State := s.latch.countCycle.budgetCheck

end Sys2Proof.Machine
end

