-- ==== Sys2Proof/Machine/Tick.lean ====
section
/-! DEFINITION. One clock cycle of the core as a function of the configuration and the state (40_clock_fetch.md R81 to R85, R93),
and what the core hands to the host at the end of a run (40_clock_fetch.md R95; 43_memory_writeback.md R150; 60_exceptions.md
R285, R289). -/

namespace Sys2Proof.Machine

/-- The part of a tick after Writeback: MEM, EX, ID, IF and the commit, or nothing of them when Writeback halted, which still
counts the tick (40_clock_fetch.md R83, R93). -/
def afterWriteback (c : Cfg) (s : State) : Except Fault State :=
  if s.exit then .ok s.countCycle
  else do
    let s ← memStep c s
    let s ← exStep c s
    let s ← idStep c s
    let s ← ifStep s
    return s.commit

/-- One tick (40_clock_fetch.md R83): WB, MEM, EX, ID, IF, then the commit. A fault discards it (60_exceptions.md R288). -/
def tick (c : Cfg) (s : State) : Except Fault State := wbStep c s >>= afterWriteback c

/-- The outcomes one tick may have: the only choice is the collaborator's, in a tick with a system call in Writeback
(40_clock_fetch.md R97). `tick` is one of them. -/
def State.Ticks (s : State) (c : Cfg) (o : Except Fault State) : Prop :=
  if !s.memWb.cur.isNop && s.memWb.cur.isSyscall then
    ∃ r, s.Syscall c.syscall s.memWb.cur r ∧
      o = (resumeSyscall s.memWb.cur r >>= fun t => afterWriteback c t.forceX0)
  else o = tick c s

/-- One tick from a state the core may tick from (40_clock_fetch.md R81): a state that is not booted or has halted has no
transition, and a faulted state takes no step (93_implementation_defined.md 1.2; log entry 9). -/
def guardedTick (c : Cfg) (s : State) : Host.Outcome State Fault Refusal :=
  match s.fault with
  | some r => .fault r
  | none =>
    if !s.booted then .refused .notBooted
    else if s.exit then .refused (.halted s.haltReason)
    else toOutcome (tick c s)

/-! ## Reports to the host -/

/-- The numeric code of a halt reason (60_exceptions.md R285). -/
def HaltReason.code : HaltReason → Nat
  | .illegalOpcode => 1
  | .syscallExit => 2
  | .budget => 3

/-- The numeric code of a fault reason (60_exceptions.md R289). -/
def Fault.code : Fault → Nat
  | .misalignedFetch _ => 1
  | .undefinedRead _ => 2
  | .unmodelledInstruction _ => 3
  | .illFormedDecode _ => 4
  | .illFormedTag => 5
  | .controlInDelaySlot _ => 6
  | .integerOverflow _ => 7
  | .divideByZero _ => 8
  | .divideOverflow _ => 9
  | .misalignedData _ => 10
  | .unknownSyscall _ => 11
  | .handlerFault _ => 12

/-- The register dump of an illegal opcode (43_memory_writeback.md R150). -/
structure RegisterDump where
  x : Vector Word 32
  f : Vector Word 32
  hi : Word
  lo : Word
  pc : Word
  insPc : Word
  ins : Word
  deriving DecidableEq, Repr

/-- The dump of a state that halted on an illegal opcode: the halting tick changes none of it and does not commit, so it is read
from the halted state (43_memory_writeback.md R150; log entry 13). -/
def State.registerDump (s : State) : Option RegisterDump :=
  if s.haltReason = some .illegalOpcode then
    some { x := s.x, f := s.f, hi := s.hi, lo := s.lo, pc := s.pc, insPc := s.memWb.cur.pc, ins := s.memWb.cur.ins }
  else none

/-- The statistics the host is handed at any end (40_clock_fetch.md R95; 60_exceptions.md R298). -/
structure Statistics where
  nFetched : Nat
  nCycles : Nat
  nCondBranch : Nat
  nJal : Nat
  nJr : Nat
  nFp : Nat
  nLoad : Nat
  nStore : Nat
  deriving DecidableEq, Repr

/-- The statistics of a halted state; a run that has not ended reports none (40_clock_fetch.md R95). -/
def State.statistics (s : State) : Option Statistics :=
  if s.exit then
    some { nFetched := s.nFetched, nCycles := s.nCycles, nCondBranch := s.nCondBranch, nJal := s.nJal, nJr := s.nJr,
           nFp := s.nFp, nLoad := s.nLoad, nStore := s.nStore }
  else none

/-- A report to the host. -/
inductive Report where
  | registerDump (d : RegisterDump)
  | statistics (t : Statistics)
  deriving DecidableEq, Repr

/-- The reports of a halted state in their order: after an illegal opcode the register dump comes first, and every end has the
statistics (40_clock_fetch.md R95; 60_exceptions.md R285; 90_conflicts.md C10). -/
def State.reports (s : State) : List Report :=
  (s.registerDump.map Report.registerDump).toList ++ (s.statistics.map Report.statistics).toList

/-- CPI is `nCycles / nFetched`, not defined when nothing was fetched (10_state.md R24; 93_implementation_defined.md 1.3). -/
def Statistics.cpi (t : Statistics) : Option Rat :=
  if t.nFetched = 0 then none else some (mkRat t.nCycles t.nFetched)

end Sys2Proof.Machine
end

