-- ==== Sys2Proof/Machine/Reference.lean ====
section
/-! DEFINITION. The reference instantiation of `Cfg` (00_scope.md R6; 45_reference_isa_int.md R159): the three dispatch tables over
the per-instruction parts, and the system-call collaborator. -/

namespace Sys2Proof.Machine

/-- The Decode part of an instruction's rule, for the word `w` it stands in (45_reference_isa_int.md R157). -/
def infoOf (i : Instr) (w : Word) : DecodeInfo :=
  match i with
  | .sll rd rt _ => infoSll rd rt w
  | .srl rd rt _ => infoSrl rd rt w
  | .sra rd rt _ => infoSra rd rt w
  | .sllv rd rt rs => infoSllv rd rt rs w
  | .srlv rd rt rs => infoSrlv rd rt rs w
  | .srav rd rt rs => infoSrav rd rt rs w
  | .add rd rs rt => infoAdd rd rs rt w
  | .addu rd rs rt => infoAddu rd rs rt w
  | .sub rd rs rt => infoSub rd rs rt w
  | .subu rd rs rt => infoSubu rd rs rt w
  | .and rd rs rt => infoAnd rd rs rt w
  | .or rd rs rt => infoOr rd rs rt w
  | .xor rd rs rt => infoXor rd rs rt w
  | .nor rd rs rt => infoNor rd rs rt w
  | .slt rd rs rt => infoSlt rd rs rt w
  | .sltu rd rs rt => infoSltu rd rs rt w
  | .mfhi rd => infoMfhi rd w
  | .mthi rs => infoMthi rs w
  | .mflo rd => infoMflo rd w
  | .mtlo rs => infoMtlo rs w
  | .mult rs rt => infoMult rs rt w
  | .multu rs rt => infoMultu rs rt w
  | .div rs rt => infoDiv rs rt w
  | .divu rs rt => infoDivu rs rt w
  | .addi rt rs _ => infoAddi rt rs w
  | .addiu rt rs _ => infoAddiu rt rs w
  | .slti rt rs _ => infoSlti rt rs w
  | .sltiu rt rs _ => infoSltiu rt rs w
  | .andi rt rs _ => infoAndi rt rs w
  | .ori rt rs _ => infoOri rt rs w
  | .xori rt rs _ => infoXori rt rs w
  | .lui rt _ => infoLui rt w
  | .j _ => infoJ w
  | .jal _ => infoJal w
  | .jr rs => infoJr rs w
  | .jalr rd rs => infoJalr rd rs w
  | .beq rs rt _ => infoBeq rs rt w
  | .bne rs rt _ => infoBne rs rt w
  | .blez rs _ => infoBlez rs w
  | .bgtz rs _ => infoBgtz rs w
  | .bltz rs _ => infoBltz rs w
  | .bgez rs _ => infoBgez rs w
  | .bltzal rs _ => infoBltzal rs w
  | .bgezal rs _ => infoBgezal rs w
  | .syscall => infoSyscall w
  | .lb rt rs _ => infoLb rt rs w
  | .lbu rt rs _ => infoLbu rt rs w
  | .lh rt rs _ => infoLh rt rs w
  | .lhu rt rs _ => infoLhu rt rs w
  | .lw rt rs _ => infoLw rt rs w
  | .lwl rt rs _ => infoLwl rt rs w
  | .lwr rt rs _ => infoLwr rt rs w
  | .sb rt rs _ => infoSb rt rs w
  | .sh rt rs _ => infoSh rt rs w
  | .sw rt rs _ => infoSw rt rs w
  | .swl rt rs _ => infoSwl rt rs w
  | .swr rt rs _ => infoSwr rt rs w
  | .mfc1 rt fs => infoMfc1 rt fs w
  | .mtc1 rt fs => infoMtc1 rt fs w
  | .addS fd fs ft => infoAddS fd fs ft w
  | .subS fd fs ft => infoSubS fd fs ft w
  | .mulS fd fs ft => infoMulS fd fs ft w
  | .divS fd fs ft => infoDivS fd fs ft w
  | .movS fd fs => infoMovS fd fs w
  | .addD fd fs ft => infoAddD fd fs ft w
  | .subD fd fs ft => infoSubD fd fs ft w
  | .mulD fd fs ft => infoMulD fd fs ft w
  | .divD fd fs ft => infoDivD fd fs ft w
  | .movD fd fs => infoMovD fd fs w
  | .lwc1 ft rs _ => infoLwc1 ft rs w
  | .swc1 ft rs _ => infoSwc1 ft rs w

/-- The reference decoder (30_encoding.md R64, R66, R68; 45_reference_isa_int.md R222; 46_reference_isa_fp.md R255). -/
def refDecode (w : Word) : DecodeResult :=
  match decode w with
  | .ok i => .legal (infoOf i w)
  | .error .illegal => .illegal
  | .error (.unmodelled why) => .unmodelled why

/-- The reference ALU handlers (45_reference_isa_int.md R159). -/
def refAlu (m : Mnemonic) (i : AluIn) : AluOut :=
  match m with
  | .sll => aluSll i
  | .srl => aluSrl i
  | .sra => aluSra i
  | .sllv => aluSllv i
  | .srlv => aluSrlv i
  | .srav => aluSrav i
  | .add => aluAdd i
  | .addu => aluAddu i
  | .sub => aluSub i
  | .subu => aluSubu i
  | .and => aluAnd i
  | .or => aluOr i
  | .xor => aluXor i
  | .nor => aluNor i
  | .slt => aluSlt i
  | .sltu => aluSltu i
  | .mfhi => aluMfhi i
  | .mthi => aluMthi i
  | .mflo => aluMflo i
  | .mtlo => aluMtlo i
  | .mult => aluMult i
  | .multu => aluMultu i
  | .div => aluDiv i
  | .divu => aluDivu i
  | .addi => aluAddi i
  | .addiu => aluAddiu i
  | .slti => aluSlti i
  | .sltiu => aluSltiu i
  | .andi => aluAndi i
  | .ori => aluOri i
  | .xori => aluXori i
  | .lui => aluLui i
  | .j => aluJ i
  | .jal => aluJal i
  | .jr => aluJr i
  | .jalr => aluJalr i
  | .beq => aluBeq i
  | .bne => aluBne i
  | .blez => aluBlez i
  | .bgtz => aluBgtz i
  | .bltz => aluBltz i
  | .bgez => aluBgez i
  | .bltzal => aluBltzal i
  | .bgezal => aluBgezal i
  | .syscall => aluSyscall i
  | .lb => aluLb i
  | .lbu => aluLbu i
  | .lh => aluLh i
  | .lhu => aluLhu i
  | .lw => aluLw i
  | .lwl => aluLwl i
  | .lwr => aluLwr i
  | .sb => aluSb i
  | .sh => aluSh i
  | .sw => aluSw i
  | .swl => aluSwl i
  | .swr => aluSwr i
  | .mfc1 => aluMfc1 i
  | .mtc1 => aluMtc1 i
  | .addS => aluAddS i
  | .subS => aluSubS i
  | .mulS => aluMulS i
  | .divS => aluDivS i
  | .movS => aluMovS i
  | .addD => aluAddD i
  | .subD => aluSubD i
  | .mulD => aluMulD i
  | .divD => aluDivD i
  | .movD => aluMovD i
  | .lwc1 => aluLwc1 i
  | .swc1 => aluSwc1 i

/-- The memory handler of an identifier that names no load or store: no reference decoder gives one (45_reference_isa_int.md R159;
log entry 10). -/
def notMemory : Except Fault MemOut := .error (.handlerFault 0)

/-- The reference memory handlers, one for each load and store (45_reference_isa_int.md R159, R160). -/
def refMemop (id : Mnemonic) (i : MemIn) (m : Memory) : Except Fault MemOut :=
  match id with
  | .sll => notMemory
  | .srl => notMemory
  | .sra => notMemory
  | .sllv => notMemory
  | .srlv => notMemory
  | .srav => notMemory
  | .add => notMemory
  | .addu => notMemory
  | .sub => notMemory
  | .subu => notMemory
  | .and => notMemory
  | .or => notMemory
  | .xor => notMemory
  | .nor => notMemory
  | .slt => notMemory
  | .sltu => notMemory
  | .mfhi => notMemory
  | .mthi => notMemory
  | .mflo => notMemory
  | .mtlo => notMemory
  | .mult => notMemory
  | .multu => notMemory
  | .div => notMemory
  | .divu => notMemory
  | .addi => notMemory
  | .addiu => notMemory
  | .slti => notMemory
  | .sltiu => notMemory
  | .andi => notMemory
  | .ori => notMemory
  | .xori => notMemory
  | .lui => notMemory
  | .j => notMemory
  | .jal => notMemory
  | .jr => notMemory
  | .jalr => notMemory
  | .beq => notMemory
  | .bne => notMemory
  | .blez => notMemory
  | .bgtz => notMemory
  | .bltz => notMemory
  | .bgez => notMemory
  | .bltzal => notMemory
  | .bgezal => notMemory
  | .syscall => notMemory
  | .lb => memLb i m
  | .lbu => memLbu i m
  | .lh => memLh i m
  | .lhu => memLhu i m
  | .lw => memLw i m
  | .lwl => memLwl i m
  | .lwr => memLwr i m
  | .sb => memSb i m
  | .sh => memSh i m
  | .sw => memSw i m
  | .swl => memSwl i m
  | .swr => memSwr i m
  | .mfc1 => notMemory
  | .mtc1 => notMemory
  | .addS => notMemory
  | .subS => notMemory
  | .mulS => notMemory
  | .divS => notMemory
  | .movS => notMemory
  | .addD => notMemory
  | .subD => notMemory
  | .mulD => notMemory
  | .divD => notMemory
  | .movD => notMemory
  | .lwc1 => memLwc1 i m
  | .swc1 => memSwc1 i m

/-- The reference configuration (00_scope.md R6, R9); its three OPEN parameters are those of Config (log entries 2 and 3). -/
def Cfg.reference : Cfg where
  decode := refDecode
  alu := refAlu
  memop := refMemop
  syscall := refSyscall
  fwdMode := Config.fwdMode
  bootPC := Config.bootPC
  instrBudget := Config.instrBudget

end Sys2Proof.Machine
end

