-- ==== Sys2Proof/Machine/Sequential.lean ====
section
/-! DEFINITION. The sequential (un-pipelined) interpreter of the same instruction stream, which 70_reset_and_hazards.md R307 and R315
compare the pipe with: one instruction at a time, each by its meaning in Dispatch. -/

namespace Sys2Proof.Machine

/-- Fetch one word at `pc` and run it whole: `exec` for a legal word, the illegal halt for an illegal one, the fault for an
unmodelled one; a reached budget ends the run instead (40_clock_fetch.md R89, R94; 41_decode_hazard.md R100;
43_memory_writeback.md R149). -/
def seqStep (s : State) : Host.Outcome State Fault Refusal :=
  if s.budgetReached then .next s.haltBudget
  else
    match fetchWord s.mem s.pc with
    | .error r => .fault r
    | .ok w =>
      match decode w with
      | .ok i => exec i s.countFetch
      | .error .illegal => .next (s.countFetch.setPc (s.pc + 4)).haltIllegal
      | .error (.unmodelled _) => .fault (.unmodelledInstruction w)

end Sys2Proof.Machine
end

