-- ==== Sys2Proof/Machine/Step.lean ====
section
/-! DEFINITION. The step of the machine: one clock tick of the core under the reference configuration (40_clock_fetch.md R83, R96;
log entry 1). -/

namespace Sys2Proof.Machine

/-- One tick from a state that may tick (40_clock_fetch.md R81, R83); the other states have no transition. -/
def step (s : State) : Host.Outcome State Fault Refusal := guardedTick Cfg.reference s

/-- `s` with the word loaded as a one-word program that runs next: it stands where the next step fetches, and the budget is that one
word, so that no later step fetches what no program has placed (40_clock_fetch.md R94). Nothing is left that could keep it from
running: the pipe is empty, the pending flags, the halt and the fault are clear, the pc is aligned. The next step fetches the word,
and the four after it decode, execute and retire it (70_reset_and_hazards.md R312). On `State.reset` only the four memory bytes and
the budget change (log entry 4). -/
def State.withFetchWord (s : State) (nbits w : Nat) : State :=
  let a : Word := BitVec.ofNat 32 (s.pc.toNat / 4 * 4)
  { s with
    mem := Memory.write4 s.mem a (tableWord nbits w)
    pc := a
    ifId := {}, idEx := {}, exMem := {}, memWb := {}
    stall := false, syscallPending := false, illegalPending := false, bdPending := false
    booted := true, exit := false, haltReason := none, fault := none, instrBudget := some (s.nFetched + 1) }

/-- The step with the fault recorded in the state: the state before the tick, with `fault` set, and from then on no change
(60_exceptions.md R288; 10_state.md R23). Final states stay as they are (40_clock_fetch.md R96). -/
def stepRecorded (s : State) : State :=
  match step s with
  | .next t => t
  | .fault r => { s with fault := some r }
  | .refused _ => s

end Sys2Proof.Machine
end

