-- ==== Sys2Proof/Safety.lean ====
section
/-! DEFINITION. The terms claims about the core are made in: runs and their ends (40_clock_fetch.md R96), the state forms that the
rules describe an instruction's effect with, what each instruction may write (from the rules of 45_reference_isa_int.md and
46_reference_isa_fp.md, not from the decoder), and the invariants of the pipe (10_state.md R14, R44; 41_decode_hazard.md R117,
R118; 42_execute_delay_slot.md R125, R134; 70_reset_and_hazards.md R307). -/

namespace Sys2Proof.Machine

/-! ## Runs (40_clock_fetch.md R96) -/

/-- `k` ticks, stopping at the first fault or refusal. -/
def run (k : Nat) (s : State) : Host.Outcome State Fault Refusal := Host.Core.run core k s

/-- A final state (40_clock_fetch.md R96). -/
def State.isFinal (s : State) : Bool := s.exit

/-- The run from `s` reaches a final state with the given reason. -/
def EndsWith (s : State) (why : HaltReason) : Prop := ∃ k t, run k s = .next t ∧ t.exit = true ∧ t.haltReason = some why

/-- A safe run of `k` ticks: no model fault on the way (60_exceptions.md R289). -/
def FaultFree (k : Nat) (s : State) : Prop := ∀ j, j ≤ k → ∀ r, run j s ≠ .fault r

/-- The state may tick (40_clock_fetch.md R81). -/
def State.mayTick (s : State) : Bool := s.booted && !s.exit && s.fault.isNone

/-! ## Forms of an instruction's effect -/

/-- The program counter moves on: to the branch target if the instruction is the delay slot of a taken control instruction, else to
the next word; the delay slot is consumed (40_clock_fetch.md R89; 42_execute_delay_slot.md R131, R133). -/
def State.advance (s : State) : State :=
  { s with pc := if s.bdPending && s.bdTaken then s.bdTarget else s.pc + 4, bdPending := false }

/-- A control instruction's effect on the controller: the pc moves to the delay slot and the outcome waits for it
(42_execute_delay_slot.md R132). -/
def State.branch (s : State) (taken : Bool) (target : Word) : State :=
  { s with pc := s.pc + 4, bdPending := true, bdTaken := taken, bdTarget := target }

/-- A register write by Writeback: `x[0]` stays zero (43_memory_writeback.md R151, R154). -/
def State.setGpr (s : State) (i : RegIdx) (v : Word) : State := (s.writeGpr i v).forceX0

/-- A floating-point word write by Writeback (43_memory_writeback.md R152, R154). -/
def State.setFpr (s : State) (i : RegIdx) (v : Word) : State := (s.writeFpr i v).forceX0

/-- A floating-point pair write by Writeback: `f[i+1]` high, `f[i]` low (43_memory_writeback.md R152, R154). -/
def State.setPair (s : State) (i : RegIdx) (v : DWord) : State := (s.writeFprPair i (high32 v) (low32 v)).forceX0

/-- A HI and LO write by Writeback (43_memory_writeback.md R153, R154). -/
def State.setHiLo (s : State) (h l : Word) : State := State.forceX0 { s with hi := h, lo := l }

/-- A store's effect: new memory, nothing written back (43_memory_writeback.md R142, R154). -/
def State.setMem (s : State) (m : Memory) : State := (s.withMem m).forceX0

/-- The effective address of a load or store: the base register plus the sign-extended immediate (45_reference_isa_int.md R160). -/
def State.addrOf (s : State) (rs : RegIdx) (imm : BitVec 16) : Word := s.readGpr rs + imm.signExtend 32

/-- The conditional-branch target of an instruction at `pc` (30_encoding.md R79). -/
def branchDest (pc : Word) (imm : BitVec 16) : Word := pc + 4 + imm.signExtend 32 * 4

/-- The jump target of an instruction at `pc` (30_encoding.md R79). -/
def jumpDest (pc : Word) (target : BitVec 26) : Word := ((pc + 4) &&& 0xF0000000) ||| (target.setWidth 32 <<< 2)

end Sys2Proof.Machine

namespace Sys2Proof

open Sys2Proof.Machine

/-! ## What an instruction may write, from the rules of files 45 and 46 -/

/-- The bits of the word that an instruction is read from; every other bit is a don't-care (30_encoding.md R77, R80). -/
def Instr.usedBits : Instr → Word
  | .sll _ _ _ | .srl _ _ _ | .sra _ _ _ | .lui _ _ => 0xFC1FFFFF
  | .sllv _ _ _ | .srlv _ _ _ | .srav _ _ _ => 0xFFFFF83F
  | .add _ _ _ | .addu _ _ _ | .sub _ _ _ | .subu _ _ _ | .and _ _ _ | .or _ _ _ | .xor _ _ _ | .nor _ _ _ => 0xFFFFF83F
  | .slt _ _ _ | .sltu _ _ _ => 0xFFFFF83F
  | .mfhi _ | .mflo _ => 0xFC00F83F
  | .mthi _ | .mtlo _ | .jr _ => 0xFFE0003F
  | .jalr _ _ => 0xFFE0F83F
  | .mult _ _ | .multu _ _ | .div _ _ | .divu _ _ => 0xFFFF003F
  | .syscall => 0xFC00003F
  | .addi _ _ _ | .addiu _ _ _ | .slti _ _ _ | .sltiu _ _ _ | .andi _ _ _ | .ori _ _ _ | .xori _ _ _ => 0xFFFFFFFF
  | .j _ | .jal _ | .beq _ _ _ | .bne _ _ _ | .bltz _ _ | .bgez _ _ | .bltzal _ _ | .bgezal _ _ => 0xFFFFFFFF
  | .blez _ _ | .bgtz _ _ => 0xFFE0FFFF
  | .lb _ _ _ | .lbu _ _ _ | .lh _ _ _ | .lhu _ _ _ | .lw _ _ _ | .lwl _ _ _ | .lwr _ _ _ => 0xFFFFFFFF
  | .sb _ _ _ | .sh _ _ _ | .sw _ _ _ | .swl _ _ _ | .swr _ _ _ | .lwc1 _ _ _ | .swc1 _ _ _ => 0xFFFFFFFF
  | .mfc1 _ _ | .mtc1 _ _ => 0xFFFFF800
  | .addS _ _ _ | .subS _ _ _ | .mulS _ _ _ | .divS _ _ _ => 0xFFFFFFFF
  | .addD _ _ _ | .subD _ _ _ | .mulD _ _ _ | .divD _ _ _ => 0xFFFFFFFF
  | .movS _ _ | .movD _ _ => 0xFFE0FFFF

/-- The general register an instruction writes back, if any. -/
def Instr.gprDest : Instr → Option RegIdx
  | .sll rd _ _ | .srl rd _ _ | .sra rd _ _ | .sllv rd _ _ | .srlv rd _ _ | .srav rd _ _ => some rd
  | .add rd _ _ | .addu rd _ _ | .sub rd _ _ | .subu rd _ _ | .and rd _ _ | .or rd _ _ | .xor rd _ _ | .nor rd _ _ => some rd
  | .slt rd _ _ | .sltu rd _ _ | .mfhi rd | .mflo rd | .jalr rd _ => some rd
  | .addi rt _ _ | .addiu rt _ _ | .slti rt _ _ | .sltiu rt _ _ | .andi rt _ _ | .ori rt _ _ | .xori rt _ _ => some rt
  | .lui rt _ | .lb rt _ _ | .lbu rt _ _ | .lh rt _ _ | .lhu rt _ _ | .lw rt _ _ | .lwl rt _ _ | .lwr rt _ _ => some rt
  | .mfc1 rt _ => some rt
  | .jal _ | .bltzal _ _ | .bgezal _ _ => some 31
  | .mthi _ | .mtlo _ | .mult _ _ | .multu _ _ | .div _ _ | .divu _ _ => none
  | .j _ | .jr _ | .beq _ _ _ | .bne _ _ _ | .blez _ _ | .bgtz _ _ | .bltz _ _ | .bgez _ _ | .syscall => none
  | .sb _ _ _ | .sh _ _ _ | .sw _ _ _ | .swl _ _ _ | .swr _ _ _ | .lwc1 _ _ _ | .swc1 _ _ _ | .mtc1 _ _ => none
  | .addS _ _ _ | .subS _ _ _ | .mulS _ _ _ | .divS _ _ _ | .movS _ _ => none
  | .addD _ _ _ | .subD _ _ _ | .mulD _ _ _ | .divD _ _ _ | .movD _ _ => none

/-- Whether an instruction writes the floating-point word `r` (46_reference_isa_fp.md R240 to R257). -/
def Instr.writesFpr (i : Instr) (r : RegIdx) : Bool :=
  match i with
  | .addS fd _ _ | .subS fd _ _ | .mulS fd _ _ | .divS fd _ _ | .movS fd _ => fd == r
  | .addD fd _ _ | .subD fd _ _ | .mulD fd _ _ | .divD fd _ _ | .movD fd _ => fd == r || fd + 1 == r
  | .mtc1 _ fs => fs == r
  | .lwc1 ft _ _ => ft == r
  | _ => false

/-- Whether an instruction writes HI, and whether it writes LO (45_reference_isa_int.md R181, R183 to R187). -/
def Instr.writesHi : Instr → Bool
  | .mthi _ | .mult _ _ | .multu _ _ | .div _ _ | .divu _ _ => true
  | _ => false

/-- See `Instr.writesHi`. -/
def Instr.writesLo : Instr → Bool
  | .mtlo _ | .mult _ _ | .multu _ _ | .div _ _ | .divu _ _ => true
  | _ => false

/-- The addresses a store writes, in state `s` (45_reference_isa_int.md R217 to R221; 46_reference_isa_fp.md R257): the form's width
in bytes from the effective address, or the bytes of the word the left and right forms touch. -/
def Instr.storedBytes (i : Instr) (s : State) : List Word :=
  match i with
  | .sb _ rs imm => [s.addrOf rs imm]
  | .sh _ rs imm => [s.addrOf rs imm, s.addrOf rs imm + 1]
  | .sw _ rs imm | .swc1 _ rs imm =>
    [s.addrOf rs imm, s.addrOf rs imm + 1, s.addrOf rs imm + 2, s.addrOf rs imm + 3]
  | .swl _ rs imm => (leftLanes (s.addrOf rs imm)).map (·.1)
  | .swr _ rs imm => (rightLanes (s.addrOf rs imm)).map (·.1)
  | _ => []

/-- A control instruction (45_reference_isa_int.md section 6). -/
def Instr.isControl : Instr → Bool
  | .j _ | .jal _ | .jr _ | .jalr _ _ => true
  | .beq _ _ _ | .bne _ _ _ | .blez _ _ | .bgtz _ _ | .bltz _ _ | .bgez _ _ | .bltzal _ _ | .bgezal _ _ => true
  | _ => false

/-- The statistics categories of an instruction (45_reference_isa_int.md R161). -/
def Instr.category : Instr → CatSet
  | .beq _ _ _ | .bne _ _ _ | .blez _ _ | .bgtz _ _ | .bltz _ _ | .bgez _ _ | .bltzal _ _ | .bgezal _ _ => { condBranch := true }
  | .jal _ => { jal := true }
  | .jr _ => { jr := true }
  | .jalr _ _ => { jal := true, jr := true }
  | .lb _ _ _ | .lbu _ _ _ | .lh _ _ _ | .lhu _ _ _ | .lw _ _ _ | .lwl _ _ _ | .lwr _ _ _ => { load := true }
  | .sb _ _ _ | .sh _ _ _ | .sw _ _ _ | .swl _ _ _ | .swr _ _ _ => { store := true }
  | .mfc1 _ _ | .mtc1 _ _ | .addS _ _ _ | .subS _ _ _ | .mulS _ _ _ | .divS _ _ _ | .movS _ _ => { fp := true }
  | .addD _ _ _ | .subD _ _ _ | .mulD _ _ _ | .divD _ _ _ | .movD _ _ => { fp := true }
  | .lwc1 _ _ _ => { load := true, fp := true }
  | .swc1 _ _ _ => { store := true, fp := true }
  | _ => {}

end Sys2Proof

namespace Sys2Proof.Machine

/-! ## Comparing states -/

/-- Two states agree on everything a claim may read of a final state, but for the cycle count and the halt
(40_clock_fetch.md R96), and on the delay-slot controller and the model's time bookkeeping. -/
structure SameArch (s t : State) : Prop where
  x : s.x = t.x
  f : s.f = t.f
  hi : s.hi = t.hi
  lo : s.lo = t.lo
  pc : s.pc = t.pc
  mem : s.mem = t.mem
  bdPending : s.bdPending = t.bdPending
  bdTaken : s.bdTaken = t.bdTaken
  bdTarget : s.bdTarget = t.bdTarget
  nFetched : s.nFetched = t.nFetched
  nCondBranch : s.nCondBranch = t.nCondBranch
  nJal : s.nJal = t.nJal
  nJr : s.nJr = t.nJr
  nFp : s.nFp = t.nFp
  nLoad : s.nLoad = t.nLoad
  nStore : s.nStore = t.nStore
  draws : s.draws = t.draws
  lastTime : s.lastTime = t.lastTime

/-! ## Invariants -/

/-- Memory is in canonical form and `x[0]` holds zero (20_memory.md R47; 10_state.md R14). -/
structure DataInv (s : State) : Prop where
  memWf : Memory.wf s.mem = true
  x0 : s.x[0] = 0

/-- The drain discipline of system calls and illegal opcodes, and the delay-slot controller (41_decode_hazard.md R117, R118;
10_state.md R44; 42_execute_delay_slot.md R134). It says nothing of a state that has ended. -/
structure DrainInv (s : State) : Prop where
  /-- A pending system call is in exactly one of the three stages after Decode. -/
  syscallPending : s.syscallPending = (s.idEx.cur.isSyscall || s.exMem.cur.isSyscall || s.memWb.cur.isSyscall)
  /-- A pending illegal opcode is in one of the three stages after Decode. -/
  illegalPending : s.illegalPending = (s.idEx.cur.isIllegal || s.exMem.cur.isIllegal || s.memWb.cur.isIllegal)
  /-- A slot that holds a system call or an illegal opcode holds a real instruction. -/
  realIdEx : (s.idEx.cur.isSyscall || s.idEx.cur.isIllegal) = true → s.idEx.cur.isNop = false
  realExMem : (s.exMem.cur.isSyscall || s.exMem.cur.isIllegal) = true → s.exMem.cur.isNop = false
  realMemWb : (s.memWb.cur.isSyscall || s.memWb.cur.isIllegal) = true → s.memWb.cur.isNop = false
  /-- Everything younger than a system call or an illegal opcode is a bubble. -/
  behindIdEx : (s.idEx.cur.isSyscall || s.idEx.cur.isIllegal) = true → s.ifId.cur.isNop = true
  behindExMem : (s.exMem.cur.isSyscall || s.exMem.cur.isIllegal) = true → s.idEx.cur.isNop = true ∧ s.ifId.cur.isNop = true
  behindMemWb : (s.memWb.cur.isSyscall || s.memWb.cur.isIllegal) = true →
    s.exMem.cur.isNop = true ∧ s.idEx.cur.isNop = true ∧ s.ifId.cur.isNop = true
  /-- A bubble is no system call and no illegal opcode (10_state.md R36). -/
  bubbleFlags : ∀ p ∈ [s.ifId.cur, s.idEx.cur, s.exMem.cur, s.memWb.cur], p.isNop = true →
    p.isSyscall = false ∧ p.isIllegal = false
  /-- No instruction is both a system call and an illegal opcode (41_decode_hazard.md R112, R118). -/
  oneFlag : ∀ p ∈ [s.idEx.cur, s.exMem.cur, s.memWb.cur], (p.isSyscall && p.isIllegal) = false
  /-- A fetched word carries no flag before Decode. -/
  fetchedFlags : s.ifId.cur.isSyscall = false ∧ s.ifId.cur.isIllegal = false
  /-- While the delay slot is pending, one real instruction at most stands behind the control instruction, the delay slot, and it is
  missing only because the budget is reached. An illegal word in the delay slot never consumes it (42_execute_delay_slot.md
  R131), so it is excepted (log entry 12). -/
  delaySlot : s.bdPending = true → s.illegalPending = true ∨
    (s.idEx.cur.isNop = false ∧ s.ifId.cur.isNop = true) ∨ (s.idEx.cur.isNop = true ∧ s.ifId.cur.isNop = false) ∨
    (s.idEx.cur.isNop = true ∧ s.ifId.cur.isNop = true ∧ s.budgetReached = true)
  /-- The word after an instruction that may turn out to be a control instruction has been fetched, unless the budget is reached. -/
  nextFetched : s.idEx.cur.isNop = false → s.idEx.cur.isSyscall = false → s.idEx.cur.isIllegal = false →
    s.bdPending = false → s.ifId.cur.isNop = false ∨ s.budgetReached = true

/-- The value of general register `i` that sequential execution gives the instruction in Execute: the youngest older writer's
result, of those still in Memory and Writeback, else the register file's (70_reset_and_hazards.md R307). -/
def State.seqGpr (s : State) (i : RegIdx) : Word :=
  if i = 0 then 0
  else if s.exMem.cur.writesGpr i then s.exMem.cur.resLo
  else if s.memWb.cur.writesGpr i then s.memWb.cur.resLo
  else s.readGpr i

/-- One operand of the instruction in Execute is the one sequential execution gives: after the forwarding substitution, a general
source has the value of `seqGpr` and does not depend on a load still in Memory; a floating-point source has the register
file's value and no older writer of its pair is in flight (41_decode_hazard.md R105, R106; 42_execute_delay_slot.md R125;
70_reset_and_hazards.md R307). -/
def OperandOk (s : State) (src : SrcRef) (tag : FwdTag) (val : DWord) : Prop :=
  match src with
  | .none => fwdVal s tag val = 0
  | .gpr i => fwdVal s tag val = zext64 (s.seqGpr i) ∧
      (i = 0 ∨ (s.exMem.cur.writesGpr i && s.exMem.cur.isLoad) = false)
  | .fpr i => fwdVal s tag val = s.readOp s.idEx.cur.fpDouble (.fpr i) ∧
      s.exMem.cur.writesFprPair (i.val / 2) = false ∧ s.memWb.cur.writesFprPair (i.val / 2) = false

/-- Both operands of a real instruction in Execute, and HI and LO if it uses them, are the sequential ones
(70_reset_and_hazards.md R307; 42_execute_delay_slot.md R125, R126). -/
structure OperandsInv (s : State) : Prop where
  first : s.idEx.cur.isNop = false → s.idEx.cur.isIllegal = false →
    OperandOk s s.idEx.cur.src1 s.idEx.cur.fwd1 s.idEx.cur.val1
  second : s.idEx.cur.isNop = false → s.idEx.cur.isIllegal = false →
    OperandOk s s.idEx.cur.src2 s.idEx.cur.fwd2 s.idEx.cur.val2
  hiLo : s.idEx.cur.isNop = false →
    (s.idEx.cur.hiWrite || s.idEx.cur.loWrite || s.idEx.cur.readsHi || s.idEx.cur.readsLo) = true →
    s.exMem.cur.writesHiLo = false ∧ s.memWb.cur.writesHiLo = false

end Sys2Proof.Machine
end

