-- ==== Sys2Proof/Certificates/Slice0/Obligations.lean ====
section
/-! DEFINITION. The statements for the provers, in the order of OBLIGATIONS.json: the encoding, reset and invariants, the tick and
its stages, memory, the result of every instruction, and the frames. -/

open Sys2Proof Sys2Proof.Machine

/-! ## The encoding -/

/-- Decoding an encoded instruction gives it back with every operand; a double-precision term with an odd register has no meaning
(30_encoding.md R77 to R80; 46_reference_isa_fp.md R255). -/
def Obligations.DecodeOfEncodeIsIdentity : Prop :=
  ∀ i : Instr, decode (encode i) = if i.wellFormed then .ok i else .error (.unmodelled "odd double register")

/-- A decoded word is well formed, and its encoding is the word with its don't-care bits cleared (30_encoding.md R77, R80). -/
def Obligations.EncodeOfDecodeKeepsUsedBits : Prop :=
  ∀ (w : Word) (i : Instr), decode w = .ok i → i.wellFormed = true ∧ encode i = w &&& i.usedBits

/-- A word is illegal exactly when no row of the opcode table matches it (30_encoding.md R66; 45_reference_isa_int.md R222). -/
def Obligations.IllegalIffNoRowMatches : Prop :=
  ∀ w : Word, decode w = .error .illegal ↔ ∀ r ∈ opcodeTable, rowMatches w r = false

/-- The row a word matches names its instruction, or is a double-precision row and the word names an odd register; no word matches
two rows (30_encoding.md R80; 46_reference_isa_fp.md R255). -/
def Obligations.MatchingRowNamesInstruction : Prop :=
  ∀ (w : Word) (r : Word × Word × Mnemonic), r ∈ opcodeTable → rowMatches w r = true →
    ((∃ i, decode w = .ok i ∧ i.mnemonic = r.2.2) ∨
      (decode w = .error (.unmodelled "odd double register") ∧ r.2.2 ∈ [.addD, .subD, .mulD, .divD, .movD])) ∧
    ∀ q ∈ opcodeTable, rowMatches w q = true → q = r

/-- Words written out bit by bit from 30_encoding.md R77 and R80 decode to the instruction they stand for. -/
def Obligations.SampleWordsDecode : Prop :=
  decode 0b000000_00000_00010_00011_00100_000000 = .ok (.sll 3 2 4) ∧
  decode 0b000000_00001_00010_00011_00000_100000 = .ok (.add 3 1 2) ∧
  decode 0b000000_00001_00010_00000_00000_011000 = .ok (.mult 1 2) ∧
  decode 0b001001_00001_00010_1111111111111100 = .ok (.addiu 2 1 0xFFFC) ∧
  decode 0b000011_00000000000000000100000011 = .ok (.jal 0x103) ∧
  decode 0b000100_00101_00110_0000000000001000 = .ok (.beq 5 6 8) ∧
  decode 0b000001_00111_10001_0000000000000001 = .ok (.bgezal 7 1) ∧
  decode 0b000000_00000_00000_00000_00000_001100 = .ok .syscall ∧
  decode 0b100011_01000_01001_0000000000010000 = .ok (.lw 9 8 16) ∧
  decode 0b101010_01000_01001_0000000000000011 = .ok (.swl 9 8 3) ∧
  decode 0b010001_10001_00100_00010_00110_000010 = .ok (.mulD 6 2 4) ∧
  decode 0b110001_00001_00011_0000000000000100 = .ok (.lwc1 3 1 4) ∧
  decode 0b000000_00000_00000_00000_00000_001101 = .error .illegal ∧
  decode 0b010001_10001_00100_00010_00001_000000 = .error (.unmodelled "odd double register")

/-- The reference decoder never breaks the decoder contract, so `IllFormedDecode` is never raised under it (30_encoding.md R65). -/
def Obligations.ReferenceDecoderMeetsContract : Prop :=
  ∀ (w : Word) (d : DecodeInfo), Cfg.reference.decode w = .legal d → d.contract = true

/-! ## Reset and invariants -/

/-- A successful reboot sets every piece of state to its reset value (10_state.md R42). The image is a list of pairs (the
model's form of it, log entry 4); no address stands in it twice. -/
def Obligations.RebootSetsResetValues : Prop :=
  ∀ (image : List (Word × Byte)) (bootPC : Word) (mode : ForwardMode) (budget : Option Nat), (image.map (·.1)).Nodup →
    ∃ s, reboot (some image) bootPC mode budget = .ok s ∧
      (∀ i : RegIdx, s.x[i] = 0) ∧ (∀ i : RegIdx, s.f[i] = 0) ∧ s.hi = 0 ∧ s.lo = 0 ∧ s.pc = bootPC ∧
      s.ifId.cur = bubble ∧ s.ifId.nxt = bubble ∧ s.idEx.cur = bubble ∧ s.idEx.nxt = bubble ∧
      s.exMem.cur = bubble ∧ s.exMem.nxt = bubble ∧ s.memWb.cur = bubble ∧ s.memWb.nxt = bubble ∧
      s.stall = false ∧ s.syscallPending = false ∧ s.illegalPending = false ∧ s.bdPending = false ∧ s.bdTaken = false ∧
      s.bdTarget = 0 ∧ s.booted = true ∧ s.exit = false ∧ s.haltReason = none ∧ s.fault = none ∧
      s.nCycles = 0 ∧ s.nFetched = 0 ∧ s.nCondBranch = 0 ∧ s.nJal = 0 ∧ s.nJr = 0 ∧ s.nFp = 0 ∧ s.nLoad = 0 ∧ s.nStore = 0 ∧
      (∀ c ∈ image, Memory.byte? s.mem c.1 = some c.2) ∧
      (∀ a, a ∉ image.map (·.1) → Memory.byte? s.mem a = none)

/-- The three invariants hold after every successful reboot, and so at `State.reset` (10_state.md R42). -/
def Obligations.InvariantsHoldAfterReboot : Prop :=
  (∀ (image : List (Word × Byte)) (bootPC : Word) (mode : ForwardMode) (budget : Option Nat) (s : State),
    reboot (some image) bootPC mode budget = .ok s → DataInv s ∧ DrainInv s ∧ OperandsInv s) ∧
  DataInv State.reset ∧ DrainInv State.reset ∧ OperandsInv State.reset

/-- Every step keeps memory canonical and `x[0]` zero (10_state.md R14; 20_memory.md R47; 43_memory_writeback.md R154). -/
def Obligations.StepKeepsDataInvariant : Prop :=
  ∀ s t : State, DataInv s → step s = .next t → DataInv t

/-- Every step that does not end the run keeps the drain discipline of system calls and illegal opcodes and the delay-slot
controller's invariant, an illegal word in a delay slot excepted (log entry 12; 41_decode_hazard.md R117, R118; 10_state.md R44;
42_execute_delay_slot.md R134). -/
def Obligations.StepKeepsDrainInvariant : Prop :=
  ∀ s t : State, DrainInv s → step s = .next t → t.exit = false → DrainInv t

/-- After every step that does not end the run, the instruction in Execute has, after the forwarding substitution, the operand values
of sequential execution, and HI and LO are not about to change under it, in every forwarding mode (70_reset_and_hazards.md R307). -/
def Obligations.ExecuteOperandsAreSequential : Prop :=
  ∀ s t : State, step s = .next t → t.exit = false → OperandsInv t

/-! ## The tick -/

/-- The core ticks only from a booted state that has neither ended nor faulted; from such a state it ticks or faults
(40_clock_fetch.md R81). -/
def Obligations.OnlyLiveStatesTick : Prop :=
  ∀ s : State, (∀ t, step s = .next t → s.booted = true ∧ s.exit = false ∧ s.fault = none) ∧
    (s.mayTick = true → (∃ t, step s = .next t) ∨ ∃ r, step s = .fault r)

/-- A fault discards the tick: the recorded step is the state before it with the fault set (60_exceptions.md R288), and stays so
(40_clock_fetch.md R81). That `step` answers the fault and `stepRecorded` records it is the model's form of it, log entry 9. -/
def Obligations.FaultDiscardsTick : Prop :=
  ∀ (s : State) (r : Fault), s.mayTick = true → tick Cfg.reference s = .error r →
    step s = .fault r ∧ stepRecorded s = { s with fault := some r } ∧ stepRecorded (stepRecorded s) = stepRecorded s

/-- Every step counts one cycle, fetches at most one word, lowers no counter, and changes neither a model argument nor the boot flag
(10_state.md R24, R25, R39; 40_clock_fetch.md R85, R93). -/
def Obligations.StepCountsOneCycle : Prop :=
  ∀ s t : State, step s = .next t →
    t.nCycles = s.nCycles + 1 ∧ (t.nFetched = s.nFetched ∨ t.nFetched = s.nFetched + 1) ∧
    s.nCondBranch ≤ t.nCondBranch ∧ s.nJal ≤ t.nJal ∧ s.nJr ≤ t.nJr ∧ s.nFp ≤ t.nFp ∧ s.nLoad ≤ t.nLoad ∧ s.nStore ≤ t.nStore ∧
    t.fwdMode = s.fwdMode ∧ t.instrBudget = s.instrBudget ∧ t.booted = s.booted ∧ t.fault = s.fault

/-- Only three events end a run, each with its reason: an illegal opcode in Writeback, a system call that requests exit, and a reached
budget with a drained pipe (60_exceptions.md R285; 40_clock_fetch.md R94). A drained pipe with a reached budget does end it. -/
def Obligations.OnlyThreeEventsEndRun : Prop :=
  ∀ s t : State, step s = .next t →
    (t.exit = true →
      (t.haltReason = some .illegalOpcode ∧ s.memWb.cur.isNop = false ∧ s.memWb.cur.isIllegal = true) ∨
      (t.haltReason = some .syscallExit ∧ s.memWb.cur.isNop = false ∧ s.memWb.cur.isSyscall = true ∧ s.x[2] = 10) ∨
      (t.haltReason = some .budget ∧ t.budgetReached = true ∧ t.drained = true ∧ t.syscallPending = false)) ∧
    (t.exit = false → t.haltReason = s.haltReason ∧ ¬ (t.budgetReached = true ∧ t.drained = true ∧ t.syscallPending = false))

/-- Only Writeback writes registers, and only it and the Memory stage write memory: a tick with a bubble in Writeback changes no
register but for forcing `x[0]`, and one with no memory operation in Memory either changes no byte (10_state.md R13 to R16, R43). -/
def Obligations.BubblesWriteNothing : Prop :=
  ∀ s t : State, step s = .next t → s.memWb.cur.isNop = true →
    (∀ i : RegIdx, t.x[i] = if i = 0 then 0 else s.x[i]) ∧ t.f = s.f ∧ t.hi = s.hi ∧ t.lo = s.lo ∧
    (s.exMem.cur.isNop = true ∨ s.exMem.cur.memOp = false → t.mem = s.mem)

/-- A lone instruction that has been fetched runs through the pipe as its meaning says, in a delay slot or not, whatever its don't-care
bits: four ticks from Decode reach the state of `exec` (log entry 1), or its fault. The budget is reached, so nothing else enters
the pipe (40_clock_fetch.md R83; 70_reset_and_hazards.md R307). -/
def Obligations.FourTicksRunDecodedInstruction : Prop :=
  ∀ (s : State) (a w : Word) (i : Instr), s.mayTick = true → decode w = .ok i → s.ifId.cur = fetched a w → s.pc = a + 4 →
    s.idEx.cur.isNop = true → s.exMem.cur.isNop = true → s.memWb.cur.isNop = true →
    s.syscallPending = false → s.budgetReached = true →
    (∀ t, exec i (s.setPc a) = .next t → ∃ u, run 4 s = .next u ∧ SameArch u t ∧ u.exit = true) ∧
    (∀ r, exec i (s.setPc a) = .fault r → run 4 s = .fault r)

/-- From an empty pipe with a budget of one more word, five ticks do one step of the sequential interpreter: fetch at the program
counter, decode, and run the decoded instruction by `exec` (log entry 1), or halt on an illegal word, or fault (40_clock_fetch.md R83, R89;
70_reset_and_hazards.md R307). -/
def Obligations.FiveTicksDoOneSequentialStep : Prop :=
  ∀ s : State, s.mayTick = true → DataInv s → s.drained = true → s.syscallPending = false → s.illegalPending = false →
    s.bdPending = false → s.instrBudget = some (s.nFetched + 1) →
    (∀ t, seqStep s = .next t → ∃ u, run 5 s = .next u ∧ SameArch u t ∧ u.exit = true) ∧
    (∀ r, seqStep s = .fault r → run 5 s = .fault r)

/-! ## Fetch and Decode -/

/-- The Fetch step: a fetch takes the word at the program counter, advances it by 4 modulo 2^32 and counts the word; a misaligned one
faults; otherwise a stalled instruction is held or the register is cleared (40_clock_fetch.md R89). -/
def Obligations.FetchStepAction : Prop :=
  ∀ s : State,
    (s.fetchEn = true → s.pc.toNat % 4 = 0 → ∀ w, Memory.read4 s.mem s.pc = .ok w →
      ifStep s = .ok { s with ifId := { s.ifId with nxt := { bubble with isNop := false, pc := s.pc, ins := w } },
                              pc := s.pc + 4, nFetched := s.nFetched + 1 }) ∧
    (s.fetchEn = true → s.pc.toNat % 4 = 0 → ∀ r, Memory.read4 s.mem s.pc = .error r → ifStep s = .error r) ∧
    (s.fetchEn = true → s.pc.toNat % 4 ≠ 0 → ifStep s = .error (.misalignedFetch s.pc)) ∧
    (s.fetchEn = false → s.stall = true → ifStep s = .ok { s with ifId := { s.ifId with nxt := s.ifId.cur } }) ∧
    (s.fetchEn = false → s.stall = false → ifStep s = .ok { s with ifId := { s.ifId with nxt := bubble } })

/-- The word a step fetches is the word memory holds at that address when the step is over: a store of the same tick is seen
(40_clock_fetch.md R92; 20_memory.md R60). A step that fetches nothing holds the word in Decode or clears it. -/
def Obligations.FetchSeesSameTickStore : Prop :=
  ∀ s t : State, step s = .next t → t.exit = false →
    (t.nFetched = s.nFetched + 1 ∧ fetchWord t.mem t.ifId.cur.pc = .ok t.ifId.cur.ins ∧ t.pc = t.ifId.cur.pc + 4 ∧
      t.ifId.cur = fetched t.ifId.cur.pc t.ifId.cur.ins) ∨
    (t.nFetched = s.nFetched ∧ t.ifId.cur = if t.stall then s.ifId.cur else bubble)

/-- The next step after a word has been placed fetches exactly that word, and the four steps after it decode, execute and retire it:
five steps reach the state of `exec` of the instruction the table word decodes to, or its fault, and the run ends because its one
word is done. From reset the placing changes only memory and the budget, and no register (log entries 1 and 4; 40_clock_fetch.md R89,
R94; 70_reset_and_hazards.md R312). -/
def Obligations.PlacedWordIsFetchedNext : Prop :=
  (∀ (s : State) (nbits w : Nat), ∃ t, step (s.withFetchWord nbits w) = .next t ∧
    t.ifId.cur = fetched (s.withFetchWord nbits w).pc (tableWord nbits w) ∧
    t.pc = (s.withFetchWord nbits w).pc + 4 ∧ t.nFetched = s.nFetched + 1) ∧
  (∀ (s : State) (nbits w : Nat) (i : Instr), DataInv s → decodeTableWord nbits w = some i →
    let p := s.withFetchWord nbits w
    (∀ t, exec i p.countFetch = .next t → ∃ u, run 5 p = .next u ∧ SameArch u t ∧ u.exit = true) ∧
    (∀ r, exec i p.countFetch = .fault r → run 5 p = .fault r)) ∧
  ∀ nbits w : Nat, State.reset.withFetchWord nbits w =
    { State.reset.withMem (Memory.write4 [] Config.bootPC (tableWord nbits w)) with instrBudget := some 1 }

/-- Which source stalls and which is tagged for a bypass, for every source and mode (41_decode_hazard.md R101, R104 to R106, R109). -/
def Obligations.SourceSelection : Prop :=
  ∀ (mode : ForwardMode) (e m : PipeReg),
    selectSrc mode e m .none = (false, .none) ∧
    selectSrc mode e m (.gpr 0) = (false, .none) ∧
    (∀ i, selectSrc mode e m (.fpr i) = (e.writesFprPair (i.val / 2) || m.writesFprPair (i.val / 2), .none)) ∧
    (∀ i, i ≠ 0 → selectSrc .none e m (.gpr i) = (e.writesGpr i || m.writesGpr i, .none)) ∧
    (∀ i, i ≠ 0 → mode ≠ .none → selectSrc mode e m (.gpr i) =
      if e.writesGpr i then (if e.isLoad then (true, .none) else (false, .fromEX))
      else if m.writesGpr i then (if mode = .exmem then (false, .fromMEM) else (true, .none))
      else (false, .none))

/-- A pending HI or LO write in Execute or Memory stalls every user of HI or LO, in every mode, and a user of neither is never stalled
by one (41_decode_hazard.md R107, R110). -/
def Obligations.HiLoHazardStalls : Prop :=
  ∀ (mode : ForwardMode) (d : DecodeInfo) (e m : PipeReg),
    (stallDecision mode d e m = true ↔
      (selectSrc mode e m d.src1).1 = true ∨ (selectSrc mode e m d.src2).1 = true ∨
      ((d.hiWrite = true ∨ d.loWrite = true ∨ d.readsHi = true ∨ d.readsLo = true) ∧
        ((e.isNop = false ∧ (e.hiWrite = true ∨ e.loWrite = true)) ∨ (m.isNop = false ∧ (m.hiWrite = true ∨ m.loWrite = true)))))

/-- A stall holds the instruction in Decode, sends a bubble to Execute, fetches nothing, and holds the program counter but for a
delay slot's redirect (41_decode_hazard.md R113 to R115; 40_clock_fetch.md R89). -/
def Obligations.StallHoldsInstruction : Prop :=
  ∀ s t : State, DrainInv s → step s = .next t → t.exit = false → t.stall = true →
    t.ifId.cur = s.ifId.cur ∧ t.idEx.cur = bubble ∧ t.nFetched = s.nFetched ∧
    t.pc = if s.bdPending && s.bdTaken && !t.bdPending then s.bdTarget else s.pc

/-- The stall cycles of an instruction behind the producer of its only general source: two without forwarding, none or two with the
Execute bypass, none or one with both, as the producer is no load or a load (41_decode_hazard.md R119, distance 1). -/
def Obligations.StallCyclesAtDistanceOne : Prop :=
  ∀ (s t1 t2 t3 : State) (a w : Word) (d : DecodeInfo) (r : RegIdx), r ≠ 0 →
    s.ifId.cur = fetched a w → Cfg.reference.decode w = .legal d →
    (d.src1 = .gpr r ∧ d.src2 = .none ∨ d.src1 = .none ∧ d.src2 = .gpr r ∨ d.src1 = .gpr r ∧ d.src2 = .gpr r) →
    s.idEx.cur.writesGpr r = true → s.idEx.cur.writesHiLo = false → s.exMem.cur.isNop = true →
    run 1 s = .next t1 → run 2 s = .next t2 → run 3 s = .next t3 → t3.exit = false →
    match s.fwdMode, s.idEx.cur.isLoad with
    | .none, _ => t1.stall = true ∧ t2.stall = true ∧ t3.stall = false ∧ t3.idEx.cur.pc = a ∧ t3.idEx.cur.ins = w
    | .ex, false => t1.stall = false ∧ t1.idEx.cur.pc = a ∧ t1.idEx.cur.ins = w
    | .ex, true => t1.stall = true ∧ t2.stall = true ∧ t3.stall = false ∧ t3.idEx.cur.pc = a ∧ t3.idEx.cur.ins = w
    | .exmem, false => t1.stall = false ∧ t1.idEx.cur.pc = a ∧ t1.idEx.cur.ins = w
    | .exmem, true => t1.stall = true ∧ t2.stall = false ∧ t2.idEx.cur.pc = a ∧ t2.idEx.cur.ins = w

/-- Decode writes only its own output register and the stall, syscall-pending and illegal-pending flags, and never lowers the last two,
under every configuration (41_decode_hazard.md R122). -/
def Obligations.DecodeWritesNoArchitecturalState : Prop :=
  ∀ (c : Cfg) (s t : State), idStep c s = .ok t →
    t = { s with idEx := { s.idEx with nxt := t.idEx.nxt }, stall := t.stall, syscallPending := t.syscallPending,
                 illegalPending := t.illegalPending } ∧
    (s.syscallPending = true → t.syscallPending = true) ∧ (s.illegalPending = true → t.illegalPending = true)

/-! ## Execute, Memory and Writeback -/

/-- A real instruction that is not illegal consumes a pending delay slot, with the redirect if the branch is taken; a control
instruction or a system call there faults; a bubble and an illegal instruction do not consume (42_execute_delay_slot.md R131). -/
def Obligations.DelaySlotConsumption : Prop :=
  ∀ (c : Cfg) (s : State), s.bdPending = true →
    let i := s.idEx.cur
    let v1 := fwdVal s i.fwd1 i.val1
    let v2 := fwdVal s i.fwd2 i.val2
    let out := aluCall c.alu i (aluInput i v1 v2 s.hi s.lo)
    (i.isNop = true → exStep c s = .ok (s.putExMem bubble)) ∧
    (i.isNop = false → i.isIllegal = true → exStep c s = .ok (s.putExMem i)) ∧
    (i.isNop = false → i.isIllegal = false → i.isSyscall = true → exStep c s = .error (.controlInDelaySlot i.pc)) ∧
    (i.isNop = false → i.isIllegal = false → i.isSyscall = false → out.fault = none → out.bd = true →
      exStep c s = .error (.controlInDelaySlot i.pc)) ∧
    (i.isNop = false → i.isIllegal = false → i.isSyscall = false → out.fault = none → out.bd = false →
      ∃ t, exStep c s = .ok t ∧ t.pc = (if s.bdTaken then s.bdTarget else s.pc) ∧ t.bdPending = false ∧
        t.exMem.nxt = { i with val1 := v1, val2 := v2, resLo := out.resLo, resHi := out.resHi, memAddr := out.memAddr,
                               bd := out.bd, btaken := out.btaken, btgt := out.btgt } ∧
        t.x = s.x ∧ t.f = s.f ∧ t.hi = s.hi ∧ t.lo = s.lo ∧ t.mem = s.mem)

/-- A control instruction that is no delay slot sets the controller from its handler's outcome, leaves the program counter alone, and
carries the outcome in its pipeline register (42_execute_delay_slot.md R132). -/
def Obligations.ControlSetsController : Prop :=
  ∀ (c : Cfg) (s : State), s.bdPending = false →
    let i := s.idEx.cur
    let out := aluCall c.alu i (aluInput i (fwdVal s i.fwd1 i.val1) (fwdVal s i.fwd2 i.val2) s.hi s.lo)
    i.isNop = false → i.isIllegal = false → i.isSyscall = false → i.aluId.isSome = true → out.fault = none → out.bd = true →
    ∃ t, exStep c s = .ok t ∧ t.bdPending = true ∧ t.bdTaken = out.btaken ∧ t.bdTarget = out.btgt ∧ t.pc = s.pc ∧
      t.exMem.nxt.bd = true ∧ t.exMem.nxt.btaken = out.btaken ∧ t.exMem.nxt.btgt = out.btgt

/-- A bubble in Execute passes a bubble on, calls no handler, and touches neither the controller nor the program counter
(42_execute_delay_slot.md R124). -/
def Obligations.BubblePassesExecute : Prop :=
  ∀ (c : Cfg) (s : State), s.idEx.cur.isNop = true →
    exStep c s = .ok { s with exMem := { s.exMem with nxt := bubble } }

/-- A normal instruction in Writeback writes the integer register, or the float word or pair, or HI and LO, as its write enables say,
and nothing else but for forcing `x[0]` to zero (43_memory_writeback.md R151 to R154). A double's register is even (R152). -/
def Obligations.WritebackCommitsResult : Prop :=
  ∀ (c : Cfg) (s : State), let q := s.memWb.cur
    q.isNop = false → q.isSyscall = false → q.isIllegal = false →
    (q.writeFReg = true → q.fpDouble = true → evenReg q.dst = true) →
    ∃ t, wbStep c s = .ok t ∧
      (∀ i : RegIdx, t.x[i] = if i = 0 then 0 else if q.writeReg && q.dst == i then q.resLo else s.x[i]) ∧
      (∀ i : RegIdx, t.f[i] = if q.writeFReg && q.fpDouble && q.dst + 1 == i then q.resHi
        else if q.writeFReg && q.dst == i then q.resLo else s.f[i]) ∧
      t.hi = (if q.hiWrite then q.resHi else s.hi) ∧ t.lo = (if q.loWrite then q.resLo else s.lo) ∧
      t = { s with x := t.x, f := t.f, hi := t.hi, lo := t.lo }

/-- An illegal opcode in Writeback ends the run in that tick: it writes no register, HI, LO, program counter or memory, the tick counts,
and the host is handed the register dump, which carries the state as it stood, and then the statistics (43_memory_writeback.md R149,
R150; 40_clock_fetch.md R93, R95). That both reports are read from the halted state is the model's form of them, log entry 13. -/
def Obligations.IllegalOpcodeHaltsAtOnce : Prop :=
  ∀ s : State, s.mayTick = true → s.memWb.cur.isNop = false → s.memWb.cur.isSyscall = false → s.memWb.cur.isIllegal = true →
    ∃ t, step s = .next t ∧
      t = { s with exit := true, haltReason := some .illegalOpcode, nCycles := s.nCycles + 1 } ∧
      t.registerDump = some { x := s.x, f := s.f, hi := s.hi, lo := s.lo, pc := s.pc,
                              insPc := s.memWb.cur.pc, ins := s.memWb.cur.ins } ∧
      t.reports = t.registerDump.toList.map .registerDump ++
        [.statistics { nFetched := s.nFetched, nCycles := s.nCycles + 1, nCondBranch := s.nCondBranch, nJal := s.nJal,
                       nJr := s.nJr, nFp := s.nFp, nLoad := s.nLoad, nStore := s.nStore }]

/-- An illegal word in Decode, with nothing ahead of it, ends the run four ticks later with no effect on any register, memory, the
program counter or the fetch count, even in a delay slot (41_decode_hazard.md R118; 43_memory_writeback.md R149). -/
def Obligations.IllegalWordIsInert : Prop :=
  ∀ (s : State) (a w : Word), s.mayTick = true → DataInv s → s.ifId.cur = fetched a w → decode w = .error .illegal →
    s.idEx.cur.isNop = true → s.exMem.cur.isNop = true → s.memWb.cur.isNop = true →
    ∃ t, run 4 s = .next t ∧ t.exit = true ∧ t.haltReason = some .illegalOpcode ∧ SameArch t s ∧
      t.memWb.cur.pc = a ∧ t.memWb.cur.ins = w ∧ t.nCycles = s.nCycles + 4

/-- A system call in Decode suppresses three fetches, is alone in Writeback after three ticks, and the fourth fetches the word after it
and clears the flag, unless it ends the run (43_memory_writeback.md R156). No budget is set. -/
def Obligations.SyscallDrainTiming : Prop :=
  ∀ (s t : State) (a w : Word), DrainInv s → s.ifId.cur = fetched a w → decode w = .ok .syscall → s.illegalPending = false →
    s.instrBudget = none → run 4 s = .next t → t.exit = false →
    (∀ k, 1 ≤ k → k ≤ 3 → ∃ u, run k s = .next u ∧ u.syscallPending = true ∧ u.nFetched = s.nFetched ∧ u.exit = false) ∧
    (∃ u, run 3 s = .next u ∧ u.memWb.cur.isSyscall = true ∧ u.memWb.cur.pc = a ∧ u.exMem.cur = bubble ∧ u.idEx.cur = bubble ∧
      u.ifId.cur = bubble) ∧
    t.syscallPending = false ∧ t.nFetched = s.nFetched + 1 ∧ t.ifId.cur.pc = a + 4 ∧ t.pc = a + 8

/-! ## Memory -/

/-- Each write is read back by the read of its width, and a word's bytes stand big-endian, the most significant at the lowest address;
addresses wrap modulo 2^32 (20_memory.md R47, R49). -/
def Obligations.MemoryReadsBackWrites : Prop :=
  ∀ (m : Memory) (a : Word),
    (∀ v : Byte, Memory.read1 (Memory.write1 m a v) a = .ok v) ∧
    (∀ v : BitVec 16, Memory.read2 (Memory.write2 m a v) a = .ok v ∧
      Memory.byte? (Memory.write2 m a v) a = some (v.extractLsb' 8 8) ∧
      Memory.byte? (Memory.write2 m a v) (a + 1) = some (v.extractLsb' 0 8)) ∧
    (∀ v : Word, Memory.read4 (Memory.write4 m a v) a = .ok v ∧
      ∀ k, k < 4 → Memory.byte? (Memory.write4 m a v) (a + BitVec.ofNat 32 k) = some (v.extractLsb' (24 - 8 * k) 8)) ∧
    (∀ v : DWord, Memory.read8 (Memory.write8 m a v) a = .ok v ∧
      ∀ k, k < 8 → Memory.byte? (Memory.write8 m a v) (a + BitVec.ofNat 32 k) = some (v.extractLsb' (56 - 8 * k) 8))

/-- A write of n bytes at `a` changes no byte but `a` to `a + n - 1`, modulo 2^32 (20_memory.md R47). -/
def Obligations.MemoryWritesOnlyItsBytes : Prop :=
  ∀ (m : Memory) (a b : Word),
    (∀ v, b ≠ a → Memory.byte? (Memory.write1 m a v) b = Memory.byte? m b) ∧
    (∀ v, (∀ k, k < 2 → b ≠ a + BitVec.ofNat 32 k) → Memory.byte? (Memory.write2 m a v) b = Memory.byte? m b) ∧
    (∀ v, (∀ k, k < 4 → b ≠ a + BitVec.ofNat 32 k) → Memory.byte? (Memory.write4 m a v) b = Memory.byte? m b) ∧
    (∀ v, (∀ k, k < 8 → b ≠ a + BitVec.ofNat 32 k) → Memory.byte? (Memory.write8 m a v) b = Memory.byte? m b)

/-- A read faults with `UndefinedRead` exactly when a byte it touches has no value, and it names the first such byte (20_memory.md
R55; which byte is named is the model's choice, log entry 5). -/
def Obligations.UndefinedByteReadFaults : Prop :=
  ∀ (m : Memory) (a : Word),
    (∀ r, Memory.read2 m a = .error r ↔ ∃ k, k < 2 ∧ Memory.byte? m (a + BitVec.ofNat 32 k) = none ∧
      (∀ j, j < k → Memory.byte? m (a + BitVec.ofNat 32 j) ≠ none) ∧ r = .undefinedRead (a + BitVec.ofNat 32 k)) ∧
    (∀ r, Memory.read4 m a = .error r ↔ ∃ k, k < 4 ∧ Memory.byte? m (a + BitVec.ofNat 32 k) = none ∧
      (∀ j, j < k → Memory.byte? m (a + BitVec.ofNat 32 j) ≠ none) ∧ r = .undefinedRead (a + BitVec.ofNat 32 k)) ∧
    (∀ r, Memory.read8 m a = .error r ↔ ∃ k, k < 8 ∧ Memory.byte? m (a + BitVec.ofNat 32 k) = none ∧
      (∀ j, j < k → Memory.byte? m (a + BitVec.ofNat 32 j) ≠ none) ∧ r = .undefinedRead (a + BitVec.ofNat 32 k))

/-! ## The result of every instruction. Each says that `exec`, the passage of the instruction alone (log entry 1), answers a next state
and gives it whole; `advance` also consumes a pending delay slot, and `setGpr` discards a write of `x[0]`. -/

/-- The six shifts; a variable amount is the low 5 bits of rs (45_reference_isa_int.md R164 to R169). -/
def Obligations.ShiftResults : Prop :=
  ∀ (s : State) (rd rt rs sh : RegIdx),
    exec (.sll rd rt sh) s = .next (s.advance.setGpr rd (s.readGpr rt <<< sh.val)) ∧
    exec (.srl rd rt sh) s = .next (s.advance.setGpr rd (s.readGpr rt >>> sh.val)) ∧
    exec (.sra rd rt sh) s = .next (s.advance.setGpr rd ((s.readGpr rt).sshiftRight sh.val)) ∧
    exec (.sllv rd rt rs) s = .next (s.advance.setGpr rd (s.readGpr rt <<< ((s.readGpr rs).extractLsb' 0 5).toNat)) ∧
    exec (.srlv rd rt rs) s = .next (s.advance.setGpr rd (s.readGpr rt >>> ((s.readGpr rs).extractLsb' 0 5).toNat)) ∧
    exec (.srav rd rt rs) s = .next (s.advance.setGpr rd ((s.readGpr rt).sshiftRight ((s.readGpr rs).extractLsb' 0 5).toNat))

/-- The three-register instructions that cannot fault (45_reference_isa_int.md R171, R173 to R179). -/
def Obligations.ThreeRegisterResults : Prop :=
  ∀ (s : State) (rd rs rt : RegIdx), let a := s.readGpr rs; let b := s.readGpr rt
    exec (.addu rd rs rt) s = .next (s.advance.setGpr rd (a + b)) ∧
    exec (.subu rd rs rt) s = .next (s.advance.setGpr rd (a - b)) ∧
    exec (.and rd rs rt) s = .next (s.advance.setGpr rd (a &&& b)) ∧
    exec (.or rd rs rt) s = .next (s.advance.setGpr rd (a ||| b)) ∧
    exec (.xor rd rs rt) s = .next (s.advance.setGpr rd (a ^^^ b)) ∧
    exec (.nor rd rs rt) s = .next (s.advance.setGpr rd (~~~(a ||| b))) ∧
    exec (.slt rd rs rt) s = .next (s.advance.setGpr rd (if a.toInt < b.toInt then 1 else 0)) ∧
    exec (.sltu rd rs rt) s = .next (s.advance.setGpr rd (if a.toNat < b.toNat then 1 else 0))

/-- ADD, SUB and ADDI write the exact sum or difference when it is a signed 32-bit number, and fault otherwise
(45_reference_isa_int.md R162, R170, R172, R188). -/
def Obligations.CheckedAddSubResults : Prop :=
  ∀ (s : State) (rd rs rt : RegIdx) (imm : BitVec 16), let a := s.readGpr rs; let b := s.readGpr rt
    exec (.add rd rs rt) s =
      (if -2 ^ 31 ≤ a.toInt + b.toInt ∧ a.toInt + b.toInt < 2 ^ 31 then
        .next (s.advance.setGpr rd (BitVec.ofInt 32 (a.toInt + b.toInt))) else .fault (.integerOverflow s.pc)) ∧
    exec (.sub rd rs rt) s =
      (if -2 ^ 31 ≤ a.toInt - b.toInt ∧ a.toInt - b.toInt < 2 ^ 31 then
        .next (s.advance.setGpr rd (BitVec.ofInt 32 (a.toInt - b.toInt))) else .fault (.integerOverflow s.pc)) ∧
    exec (.addi rd rs imm) s =
      (if -2 ^ 31 ≤ a.toInt + imm.toInt ∧ a.toInt + imm.toInt < 2 ^ 31 then
        .next (s.advance.setGpr rd (BitVec.ofInt 32 (a.toInt + imm.toInt))) else .fault (.integerOverflow s.pc))

/-- The immediate instructions that cannot fault; SLTIU compares the sign-extended immediate unsigned, the logical ones extend with
zeros (45_reference_isa_int.md R189 to R195; 30_encoding.md R79). -/
def Obligations.ImmediateResults : Prop :=
  ∀ (s : State) (rt rs : RegIdx) (imm : BitVec 16), let a := s.readGpr rs
    exec (.addiu rt rs imm) s = .next (s.advance.setGpr rt (a + imm.signExtend 32)) ∧
    exec (.slti rt rs imm) s = .next (s.advance.setGpr rt (if a.toInt < imm.toInt then 1 else 0)) ∧
    exec (.sltiu rt rs imm) s = .next (s.advance.setGpr rt (if a.toNat < (imm.signExtend 32).toNat then 1 else 0)) ∧
    exec (.andi rt rs imm) s = .next (s.advance.setGpr rt (a &&& imm.setWidth 32)) ∧
    exec (.ori rt rs imm) s = .next (s.advance.setGpr rt (a ||| imm.setWidth 32)) ∧
    exec (.xori rt rs imm) s = .next (s.advance.setGpr rt (a ^^^ imm.setWidth 32)) ∧
    exec (.lui rt imm) s = .next (s.advance.setGpr rt (imm.setWidth 32 <<< 16))

/-- The HI and LO moves (45_reference_isa_int.md R180 to R183). -/
def Obligations.HiLoMoveResults : Prop :=
  ∀ (s : State) (rd rs : RegIdx),
    exec (.mfhi rd) s = .next (s.advance.setGpr rd s.hi) ∧
    exec (.mflo rd) s = .next (s.advance.setGpr rd s.lo) ∧
    exec (.mthi rs) s = .next (s.advance.setHiLo (s.readGpr rs) s.lo) ∧
    exec (.mtlo rs) s = .next (s.advance.setHiLo s.hi (s.readGpr rs))

/-- MULT and MULTU put the exact 64-bit product in HI and LO (45_reference_isa_int.md R184, R185). -/
def Obligations.MultiplyResults : Prop :=
  ∀ (s : State) (rs rt : RegIdx), let a := s.readGpr rs; let b := s.readGpr rt
    (∃ h l : Word, (h ++ l).toInt = a.toInt * b.toInt ∧ exec (.mult rs rt) s = .next (s.advance.setHiLo h l)) ∧
    (∃ h l : Word, (h ++ l).toNat = a.toNat * b.toNat ∧ exec (.multu rs rt) s = .next (s.advance.setHiLo h l))

/-- DIV and DIVU put the quotient, truncated toward zero, in LO and the remainder, with the dividend's sign, in HI
(45_reference_isa_int.md R186, R187). -/
def Obligations.DivideResults : Prop :=
  ∀ (s : State) (rs rt : RegIdx), let a := s.readGpr rs; let b := s.readGpr rt
    b ≠ 0 →
    (¬ (a = 0x80000000 ∧ b = 0xFFFFFFFF) →
      ∃ r q : Word, a.toInt = q.toInt * b.toInt + r.toInt ∧ r.toInt.natAbs < b.toInt.natAbs ∧
        (0 < r.toInt → 0 < a.toInt) ∧ (r.toInt < 0 → a.toInt < 0) ∧ exec (.div rs rt) s = .next (s.advance.setHiLo r q)) ∧
    (∃ r q : Word, a.toNat = q.toNat * b.toNat + r.toNat ∧ r.toNat < b.toNat ∧
        exec (.divu rs rt) s = .next (s.advance.setHiLo r q))

/-- DIV and DIVU by zero, and DIV of the most negative number by -1, fault (45_reference_isa_int.md R162, R186, R187). -/
def Obligations.DivideFaults : Prop :=
  ∀ (s : State) (rs rt : RegIdx),
    (s.readGpr rt = 0 → exec (.div rs rt) s = .fault (.divideByZero s.pc) ∧ exec (.divu rs rt) s = .fault (.divideByZero s.pc)) ∧
    (s.readGpr rs = 0x80000000 → s.readGpr rt = 0xFFFFFFFF → exec (.div rs rt) s = .fault (.divideOverflow s.pc))

/-- The jumps outside a delay slot: the outcome waits for the delay slot, the link is the address after it, and JALR reads its target
before the link is written (45_reference_isa_int.md R196 to R199; 42_execute_delay_slot.md R132). -/
def Obligations.JumpResults : Prop :=
  ∀ (s : State) (rd rs : RegIdx) (target : BitVec 26), s.bdPending = false →
    exec (.j target) s = .next (s.branch true (jumpDest s.pc target)).forceX0 ∧
    exec (.jal target) s =
      .next (((s.branch true (jumpDest s.pc target)).bump { jal := true }).setGpr 31 (s.pc + 8)) ∧
    exec (.jr rs) s = .next ((s.branch true (s.readGpr rs)).bump { jr := true }).forceX0 ∧
    exec (.jalr rd rs) s =
      .next (((s.branch true (s.readGpr rs)).bump { jal := true, jr := true }).setGpr rd (s.pc + 8))

/-- The conditional branches outside a delay slot; BLTZAL and BGEZAL link whether or not they are taken (45_reference_isa_int.md R200 to
R207; 42_execute_delay_slot.md R132). -/
def Obligations.BranchResults : Prop :=
  ∀ (s : State) (rs rt : RegIdx) (imm : BitVec 16), s.bdPending = false →
    let a := s.readGpr rs; let b := s.readGpr rt; let dest := branchDest s.pc imm; let cat : CatSet := { condBranch := true }
    exec (.beq rs rt imm) s = .next ((s.branch (decide (a = b)) dest).bump cat).forceX0 ∧
    exec (.bne rs rt imm) s = .next ((s.branch (decide (a ≠ b)) dest).bump cat).forceX0 ∧
    exec (.blez rs imm) s = .next ((s.branch (decide (a.toInt ≤ 0)) dest).bump cat).forceX0 ∧
    exec (.bgtz rs imm) s = .next ((s.branch (decide (0 < a.toInt)) dest).bump cat).forceX0 ∧
    exec (.bltz rs imm) s = .next ((s.branch (decide (a.toInt < 0)) dest).bump cat).forceX0 ∧
    exec (.bgez rs imm) s = .next ((s.branch (decide (0 ≤ a.toInt)) dest).bump cat).forceX0 ∧
    exec (.bltzal rs imm) s = .next (((s.branch (decide (a.toInt < 0)) dest).bump cat).setGpr 31 (s.pc + 8)) ∧
    exec (.bgezal rs imm) s = .next (((s.branch (decide (0 ≤ a.toInt)) dest).bump cat).setGpr 31 (s.pc + 8))

/-- A control instruction or a system call in a delay slot faults, naming its own address (42_execute_delay_slot.md R131). -/
def Obligations.ControlInDelaySlotFaults : Prop :=
  ∀ (s : State) (i : Instr), s.bdPending = true → i.isControl = true ∨ i = .syscall →
    exec i s = .fault (.controlInDelaySlot s.pc)

/-- SYSCALL outside a delay slot: service 10 ends the run, service 30 hands out a time that is a free value at least every earlier one
(the model's form of it, log entry 7), and any other service faults; the program counter moves past it (46_reference_isa_fp.md R260
to R262; 43_memory_writeback.md R148). -/
def Obligations.SyscallResults : Prop :=
  ∀ s : State, s.bdPending = false →
    (s.x[2] = 10 → exec .syscall s =
      .next (State.forceX0 { s with pc := s.pc + 4, syscallPending := false, exit := true, haltReason := some .syscallExit })) ∧
    (s.x[2] = 30 → ∃ time : DWord, s.lastTime ≤ time ∧ exec .syscall s =
      .next (State.forceX0 { s with
        pc := s.pc + 4, syscallPending := false, draws := s.draws + 1, lastTime := time,
        x := (s.x.set 4 (time.extractLsb' 0 32)).set 5 (time.extractLsb' 32 32) })) ∧
    (s.x[2] ≠ 10 → s.x[2] ≠ 30 → exec .syscall s = .fault (.unknownSyscall s.x[2]))

/-- The aligned loads of defined bytes, big-endian, sign or zero extended (45_reference_isa_int.md R209 to R213;
46_reference_isa_fp.md R256). -/
def Obligations.LoadResults : Prop :=
  ∀ (s : State) (rt rs : RegIdx) (imm : BitVec 16) (b0 b1 b2 b3 : Byte),
    let a := s.addrOf rs imm; let next := s.advance.bump { load := true }
    Memory.byte? s.mem a = some b0 →
    exec (.lb rt rs imm) s = .next (next.setGpr rt (b0.signExtend 32)) ∧
    exec (.lbu rt rs imm) s = .next (next.setGpr rt (b0.setWidth 32)) ∧
    (a.toNat % 2 = 0 → Memory.byte? s.mem (a + 1) = some b1 →
      exec (.lh rt rs imm) s = .next (next.setGpr rt ((b0 ++ b1).signExtend 32)) ∧
      exec (.lhu rt rs imm) s = .next (next.setGpr rt ((b0 ++ b1).setWidth 32))) ∧
    (a.toNat % 4 = 0 → Memory.byte? s.mem (a + 1) = some b1 → Memory.byte? s.mem (a + 2) = some b2 →
      Memory.byte? s.mem (a + 3) = some b3 →
      exec (.lw rt rs imm) s = .next (next.setGpr rt (b0 ++ b1 ++ b2 ++ b3)) ∧
      exec (.lwc1 rt rs imm) s = .next ((s.advance.bump { load := true, fp := true }).setFpr rt (b0 ++ b1 ++ b2 ++ b3)))

/-- LWL and LWR merge the bytes from the address up to its word's end, or from its word's start up to the address, into rt
(45_reference_isa_int.md R214, R215). They need no other byte to be defined. -/
def Obligations.UnalignedLoadResults : Prop :=
  ∀ (s : State) (rt rs : RegIdx) (imm : BitVec 16) (b0 b1 b2 b3 : Byte),
    let a := s.addrOf rs imm; let r := s.readGpr rt; let next := s.advance.bump { load := true }
    let at' := fun (d : Word) (b : Byte) => Memory.byte? s.mem (a + d) = some b
    let below := fun (d : Word) (b : Byte) => Memory.byte? s.mem (a - d) = some b
    (a.toNat % 4 = 0 → at' 0 b0 → at' 1 b1 → at' 2 b2 → at' 3 b3 →
      exec (.lwl rt rs imm) s = .next (next.setGpr rt (b0 ++ b1 ++ b2 ++ b3))) ∧
    (a.toNat % 4 = 1 → at' 0 b0 → at' 1 b1 → at' 2 b2 →
      exec (.lwl rt rs imm) s = .next (next.setGpr rt (b0 ++ b1 ++ b2 ++ r.extractLsb' 0 8))) ∧
    (a.toNat % 4 = 2 → at' 0 b0 → at' 1 b1 →
      exec (.lwl rt rs imm) s = .next (next.setGpr rt (b0 ++ b1 ++ r.extractLsb' 0 16))) ∧
    (a.toNat % 4 = 3 → at' 0 b0 →
      exec (.lwl rt rs imm) s = .next (next.setGpr rt (b0 ++ r.extractLsb' 0 24))) ∧
    (a.toNat % 4 = 0 → below 0 b3 →
      exec (.lwr rt rs imm) s = .next (next.setGpr rt (r.extractLsb' 8 24 ++ b3))) ∧
    (a.toNat % 4 = 1 → below 0 b3 → below 1 b2 →
      exec (.lwr rt rs imm) s = .next (next.setGpr rt (r.extractLsb' 16 16 ++ b2 ++ b3))) ∧
    (a.toNat % 4 = 2 → below 0 b3 → below 1 b2 → below 2 b1 →
      exec (.lwr rt rs imm) s = .next (next.setGpr rt (r.extractLsb' 24 8 ++ b1 ++ b2 ++ b3))) ∧
    (a.toNat % 4 = 3 → below 0 b3 → below 1 b2 → below 2 b1 → below 3 b0 →
      exec (.lwr rt rs imm) s = .next (next.setGpr rt (b0 ++ b1 ++ b2 ++ b3)))

/-- `LWL rt,imm(rs)` followed by `LWR rt,imm+3(rs)` loads the word at any address whose four bytes are defined (45_reference_isa_int.md
R215), for an rt that is neither 0 nor the base. -/
def Obligations.UnalignedPairLoadsWord : Prop :=
  ∀ (s : State) (rt rs : RegIdx) (imm imm3 : BitVec 16) (b0 b1 b2 b3 : Byte), let a := s.addrOf rs imm
    rt ≠ 0 → rt ≠ rs → imm3.toInt = imm.toInt + 3 →
    Memory.byte? s.mem a = some b0 → Memory.byte? s.mem (a + 1) = some b1 →
    Memory.byte? s.mem (a + 2) = some b2 → Memory.byte? s.mem (a + 3) = some b3 →
    ∃ t u, exec (.lwl rt rs imm) s = .next t ∧ exec (.lwr rt rs imm3) t = .next u ∧ u.readGpr rt = b0 ++ b1 ++ b2 ++ b3

/-- The aligned stores: memory is written with the low byte, halfword or word of the data register, and nothing is written back
(45_reference_isa_int.md R217 to R219; 46_reference_isa_fp.md R257). -/
def Obligations.StoreResults : Prop :=
  ∀ (s : State) (rt rs : RegIdx) (imm : BitVec 16),
    let a := s.addrOf rs imm; let b := s.readGpr rt; let next := s.advance.bump { store := true }
    exec (.sb rt rs imm) s = .next (next.setMem (Memory.write1 s.mem a (b.extractLsb' 0 8))) ∧
    (a.toNat % 2 = 0 → exec (.sh rt rs imm) s = .next (next.setMem (Memory.write2 s.mem a (b.extractLsb' 0 16)))) ∧
    (a.toNat % 4 = 0 → exec (.sw rt rs imm) s = .next (next.setMem (Memory.write4 s.mem a b)) ∧
      exec (.swc1 rt rs imm) s =
        .next ((s.advance.bump { store := true, fp := true }).setMem (Memory.write4 s.mem a (s.readFpr rt))))

/-- SWL stores the high bytes of rt from the address up to its word's end; SWR stores its low bytes from the address down to its word's
start (45_reference_isa_int.md R220, R221). -/
def Obligations.UnalignedStoreResults : Prop :=
  ∀ (s : State) (rt rs : RegIdx) (imm : BitVec 16),
    let a := s.addrOf rs imm; let b := s.readGpr rt; let k := a.toNat % 4; let next := s.advance.bump { store := true }
    (∃ m, exec (.swl rt rs imm) s = .next (next.setMem m) ∧
      (∀ j, j < 4 - k → Memory.byte? m (a + BitVec.ofNat 32 j) = some (b.extractLsb' (24 - 8 * j) 8)) ∧
      (∀ c, (∀ j, j < 4 - k → c ≠ a + BitVec.ofNat 32 j) → Memory.byte? m c = Memory.byte? s.mem c)) ∧
    (∃ m, exec (.swr rt rs imm) s = .next (next.setMem m) ∧
      (∀ j, j < k + 1 → Memory.byte? m (a - BitVec.ofNat 32 j) = some (b.extractLsb' (8 * j) 8)) ∧
      (∀ c, (∀ j, j < k + 1 → c ≠ a - BitVec.ofNat 32 j) → Memory.byte? m c = Memory.byte? s.mem c))

/-- A misaligned halfword or word access faults before any byte is touched, naming the address (45_reference_isa_int.md R216), and an
aligned load from a byte with no value faults, naming the byte (20_memory.md R55; 43_memory_writeback.md R145); that it names this
byte when a later one has no value either is the model's choice, log entry 5. -/
def Obligations.DataAccessFaults : Prop :=
  ∀ (s : State) (rt rs : RegIdx) (imm : BitVec 16), let a := s.addrOf rs imm
    (a.toNat % 2 ≠ 0 → ∀ i ∈ [Instr.lh rt rs imm, .lhu rt rs imm, .sh rt rs imm], exec i s = .fault (.misalignedData a)) ∧
    (a.toNat % 4 ≠ 0 → ∀ i ∈ [Instr.lw rt rs imm, .sw rt rs imm, .lwc1 rt rs imm, .swc1 rt rs imm],
      exec i s = .fault (.misalignedData a)) ∧
    (Memory.byte? s.mem a = none →
      (∀ i ∈ [Instr.lb rt rs imm, .lbu rt rs imm, .lwl rt rs imm, .lwr rt rs imm], exec i s = .fault (.undefinedRead a)) ∧
      (a.toNat % 2 = 0 → ∀ i ∈ [Instr.lh rt rs imm, .lhu rt rs imm], exec i s = .fault (.undefinedRead a)) ∧
      (a.toNat % 4 = 0 → ∀ i ∈ [Instr.lw rt rs imm, .lwc1 rt rs imm], exec i s = .fault (.undefinedRead a)))

/-- The single-precision and register-file moves and arithmetic; the four operations are whatever the parameters say, and none faults
(46_reference_isa_fp.md R241, R243 to R249). -/
def Obligations.SingleFloatResults : Prop :=
  ∀ (s : State) (rt fd fs ft : RegIdx), let a := s.readFpr fs; let b := s.readFpr ft; let next := s.advance.bump { fp := true }
    exec (.mfc1 rt fs) s = .next (next.setGpr rt a) ∧
    exec (.mtc1 rt fs) s = .next (next.setFpr fs (s.readGpr rt)) ∧
    exec (.addS fd fs ft) s = .next (next.setFpr fd (Config.fadd32 a b)) ∧
    exec (.subS fd fs ft) s = .next (next.setFpr fd (Config.fsub32 a b)) ∧
    exec (.mulS fd fs ft) s = .next (next.setFpr fd (Config.fmul32 a b)) ∧
    exec (.divS fd fs ft) s = .next (next.setFpr fd (Config.fdiv32 a b)) ∧
    exec (.movS fd fs) s = .next (next.setFpr fd a)

/-- The double-precision instructions on even registers: the pair's odd word is the high word (46_reference_isa_fp.md R240, R250 to
R254). -/
def Obligations.DoubleFloatResults : Prop :=
  ∀ (s : State) (fd fs ft : RegIdx), evenReg fd = true → evenReg fs = true →
    let a : DWord := s.f[fs + 1] ++ s.f[fs]; let b : DWord := s.f[ft + 1] ++ s.f[ft]; let next := s.advance.bump { fp := true }
    (evenReg ft = true →
      exec (.addD fd fs ft) s = .next (next.setPair fd (Config.fadd64 a b)) ∧
      exec (.subD fd fs ft) s = .next (next.setPair fd (Config.fsub64 a b)) ∧
      exec (.mulD fd fs ft) s = .next (next.setPair fd (Config.fmul64 a b)) ∧
      exec (.divD fd fs ft) s = .next (next.setPair fd (Config.fdiv64 a b))) ∧
    exec (.movD fd fs) s = .next (next.setPair fd a)

/-- A double-precision instruction that names an odd register has no meaning and faults, and its word is unmodelled
(46_reference_isa_fp.md R255; 30_encoding.md R68). -/
def Obligations.OddDoubleRegisterFaults : Prop :=
  ∀ (s : State) (i : Instr), i.wellFormed = false →
    exec i s = .fault (.unmodelledInstruction (encode i)) ∧
    Cfg.reference.decode (encode i) = .unmodelled "odd double register"

/-! ## Frames -/

/-- A next state of any instruction differs from the state before in no general register but the instruction's destination (and x4 and
x5 for the time service), no float word but its own, and HI and LO only if it writes them (45_reference_isa_int.md R164 to R221;
46_reference_isa_fp.md R243 to R262). -/
def Obligations.RegisterFrame : Prop :=
  ∀ (i : Instr) (s t : State), exec i s = .next t →
    (∀ r : RegIdx, r ≠ 0 → i.gprDest ≠ some r → ¬ (i = .syscall ∧ s.x[2] = 30 ∧ (r = 4 ∨ r = 5)) → t.x[r] = s.x[r]) ∧
    t.x[(0 : RegIdx)] = 0 ∧
    (∀ r : RegIdx, i.writesFpr r = false → t.f[r] = s.f[r]) ∧
    (i.writesHi = false → t.hi = s.hi) ∧ (i.writesLo = false → t.lo = s.lo)

/-- A next state of any instruction has every byte of memory as before but for the bytes a store writes, computed from the state before;
a store writes all of those (45_reference_isa_int.md R217 to R221; 46_reference_isa_fp.md R257). -/
def Obligations.MemoryFrame : Prop :=
  ∀ (i : Instr) (s t : State), exec i s = .next t →
    (∀ a : Word, a ∉ i.storedBytes s → Memory.byte? t.mem a = Memory.byte? s.mem a) ∧
    (∀ a : Word, a ∈ i.storedBytes s → Memory.byte? t.mem a ≠ none)

/-- A next state of any instruction counts the instruction's categories and leaves every other counter, the pipeline registers, the
flags and the model arguments alone; only control instructions leave a delay slot pending or touch its outcome, and only SYSCALL
ends a run or draws a time (45_reference_isa_int.md R161; 42_execute_delay_slot.md R136; 60_exceptions.md R282). That the cycle and
fetch counts and the pipeline registers are unchanged is the model's choice of what `exec` is, the passage of one instruction without
its ticks (log entry 1); that a time is drawn by `draws` and `lastTime` is the model's form of the time query (log entry 7). -/
def Obligations.ControlStateFrame : Prop :=
  ∀ (i : Instr) (s t : State), exec i s = .next t →
    (t.nCondBranch = s.nCondBranch + i.category.condBranch.toNat ∧ t.nJal = s.nJal + i.category.jal.toNat ∧
      t.nJr = s.nJr + i.category.jr.toNat ∧ t.nFp = s.nFp + i.category.fp.toNat ∧ t.nLoad = s.nLoad + i.category.load.toNat ∧
      t.nStore = s.nStore + i.category.store.toNat ∧ t.nCycles = s.nCycles ∧ t.nFetched = s.nFetched) ∧
    (t.ifId = s.ifId ∧ t.idEx = s.idEx ∧ t.exMem = s.exMem ∧ t.memWb = s.memWb ∧ t.stall = s.stall ∧
      t.illegalPending = s.illegalPending ∧ t.booted = s.booted ∧ t.fault = s.fault ∧ t.fwdMode = s.fwdMode ∧
      t.instrBudget = s.instrBudget) ∧
    (t.bdPending = i.isControl ∧ (i.isControl = false → t.bdTaken = s.bdTaken ∧ t.bdTarget = s.bdTarget)) ∧
    (i ≠ .syscall → t.syscallPending = s.syscallPending ∧ t.exit = s.exit ∧ t.haltReason = s.haltReason ∧
      t.draws = s.draws ∧ t.lastTime = s.lastTime)
end

