-- ==== Sys2Proof/Laws/Decode.lean ====
section
/-! SUPPORT. Fields of the words the encoder packs (30_encoding.md R77) and of the bytes of a word (20_memory.md R49). -/

namespace Sys2Proof

/-- Two vectors side by side, as a number. -/
theorem toNat_append_eq {n m : Nat} (x : BitVec n) (y : BitVec m) : (x ++ y).toNat = x.toNat * 2 ^ m + y.toNat := by
  rw [BitVec.toNat_append, ← Nat.shiftLeft_add_eq_or_of_lt y.isLt, Nat.shiftLeft_eq]

/-! ## R and FR formats -/

section
variable {op a b c d f : Nat}

theorem toNat_packR (ho : op < 64) (ha : a < 32) (hb : b < 32) (hc : c < 32) (hd : d < 32) (hf : f < 64) :
    (packR op a b c d f).toNat = op * 2 ^ 26 + a * 2 ^ 21 + b * 2 ^ 16 + c * 2 ^ 11 + d * 2 ^ 6 + f := by
  simp only [packR, toNat_append_eq, BitVec.toNat_ofNat]
  omega

theorem opcodeOf_packR (ho : op < 64) (ha : a < 32) (hb : b < 32) (hc : c < 32) (hd : d < 32) (hf : f < 64) :
    opcodeOf (packR op a b c d f) = op := by
  simp only [opcodeOf, bitField, toNat_packR ho ha hb hc hd hf]; omega

theorem functOf_packR (ho : op < 64) (ha : a < 32) (hb : b < 32) (hc : c < 32) (hd : d < 32) (hf : f < 64) :
    functOf (packR op a b c d f) = f := by
  simp only [functOf, bitField, toNat_packR ho ha hb hc hd hf]; omega

theorem fmtOf_packR (ho : op < 64) (ha : a < 32) (hb : b < 32) (hc : c < 32) (hd : d < 32) (hf : f < 64) :
    fmtOf (packR op a b c d f) = a := by
  simp only [fmtOf, bitField, toNat_packR ho ha hb hc hd hf]; omega

theorem rsOf_packR (ho : op < 64) (ha : a < 32) (hb : b < 32) (hc : c < 32) (hd : d < 32) (hf : f < 64) :
    (rsOf (packR op a b c d f)).val = a := by
  simp only [rsOf, bitField, Fin.val_ofNat, toNat_packR ho ha hb hc hd hf]; omega

theorem rtOf_packR (ho : op < 64) (ha : a < 32) (hb : b < 32) (hc : c < 32) (hd : d < 32) (hf : f < 64) :
    (rtOf (packR op a b c d f)).val = b := by
  simp only [rtOf, bitField, Fin.val_ofNat, toNat_packR ho ha hb hc hd hf]; omega

theorem rdOf_packR (ho : op < 64) (ha : a < 32) (hb : b < 32) (hc : c < 32) (hd : d < 32) (hf : f < 64) :
    (rdOf (packR op a b c d f)).val = c := by
  simp only [rdOf, bitField, Fin.val_ofNat, toNat_packR ho ha hb hc hd hf]; omega

theorem shamtOf_packR (ho : op < 64) (ha : a < 32) (hb : b < 32) (hc : c < 32) (hd : d < 32) (hf : f < 64) :
    (shamtOf (packR op a b c d f)).val = d := by
  simp only [shamtOf, bitField, Fin.val_ofNat, toNat_packR ho ha hb hc hd hf]; omega

theorem ftOf_packR (ho : op < 64) (ha : a < 32) (hb : b < 32) (hc : c < 32) (hd : d < 32) (hf : f < 64) :
    (ftOf (packR op a b c d f)).val = b := rtOf_packR ho ha hb hc hd hf

theorem fsOf_packR (ho : op < 64) (ha : a < 32) (hb : b < 32) (hc : c < 32) (hd : d < 32) (hf : f < 64) :
    (fsOf (packR op a b c d f)).val = c := rdOf_packR ho ha hb hc hd hf

theorem fdOf_packR (ho : op < 64) (ha : a < 32) (hb : b < 32) (hc : c < 32) (hd : d < 32) (hf : f < 64) :
    (fdOf (packR op a b c d f)).val = d := shamtOf_packR ho ha hb hc hd hf

/-! ## I and J formats -/

theorem toNat_packI {imm : BitVec 16} (ho : op < 64) (ha : a < 32) (hb : b < 32) :
    (packI op a b imm).toNat = op * 2 ^ 26 + a * 2 ^ 21 + b * 2 ^ 16 + imm.toNat := by
  have := imm.isLt
  simp only [packI, toNat_append_eq, BitVec.toNat_ofNat]
  omega

theorem opcodeOf_packI {imm : BitVec 16} (ho : op < 64) (ha : a < 32) (hb : b < 32) : opcodeOf (packI op a b imm) = op := by
  have := imm.isLt
  simp only [opcodeOf, bitField, toNat_packI ho ha hb]; omega

theorem rsOf_packI {imm : BitVec 16} (ho : op < 64) (ha : a < 32) (hb : b < 32) : (rsOf (packI op a b imm)).val = a := by
  have := imm.isLt
  simp only [rsOf, bitField, Fin.val_ofNat, toNat_packI ho ha hb]; omega

theorem rtOf_packI {imm : BitVec 16} (ho : op < 64) (ha : a < 32) (hb : b < 32) : (rtOf (packI op a b imm)).val = b := by
  have := imm.isLt
  simp only [rtOf, bitField, Fin.val_ofNat, toNat_packI ho ha hb]; omega

theorem ftOf_packI {imm : BitVec 16} (ho : op < 64) (ha : a < 32) (hb : b < 32) : (ftOf (packI op a b imm)).val = b :=
  rtOf_packI ho ha hb

theorem imm16Of_packI {imm : BitVec 16} (ho : op < 64) (ha : a < 32) (hb : b < 32) : imm16Of (packI op a b imm) = imm := by
  have := imm.isLt
  apply BitVec.eq_of_toNat_eq
  simp only [imm16Of, bitField, BitVec.toNat_ofNat, toNat_packI ho ha hb]; omega

theorem toNat_packJ {t : BitVec 26} (ho : op < 64) : (packJ op t).toNat = op * 2 ^ 26 + t.toNat := by
  have := t.isLt
  simp only [packJ, toNat_append_eq, BitVec.toNat_ofNat]
  omega

theorem opcodeOf_packJ {t : BitVec 26} (ho : op < 64) : opcodeOf (packJ op t) = op := by
  have := t.isLt
  simp only [opcodeOf, bitField, toNat_packJ ho]; omega

theorem target26Of_packJ {t : BitVec 26} (ho : op < 64) : target26Of (packJ op t) = t := by
  have := t.isLt
  apply BitVec.eq_of_toNat_eq
  simp only [target26Of, bitField, BitVec.toNat_ofNat, toNat_packJ ho]; omega

end

/-! ## Bytes of a word -/

theorem toNat_byteOfWord (w : Word) (k : Nat) : (byteOfWord w k).toNat = w.toNat / 2 ^ (8 * (3 - k)) % 256 := by
  have h : ∀ n : Nat, (BitVec.ofNat 8 (n % 2 ^ 8)).toNat = n % 256 := fun n => by simp
  exact h _

/-- A word is the word of its bytes. -/
theorem wordOfBytes_byteOfWord (w : Word) :
    wordOfBytes (byteOfWord w 0) (byteOfWord w 1) (byteOfWord w 2) (byteOfWord w 3) = w := by
  have := w.isLt
  apply BitVec.eq_of_toNat_eq
  simp only [wordOfBytes, toNat_append_eq, toNat_byteOfWord]
  omega

/-- The bytes of a word of bytes are those bytes. -/
theorem byteOfWord_wordOfBytes (b0 b1 b2 b3 : Byte) :
    byteOfWord (wordOfBytes b0 b1 b2 b3) 0 = b0 ∧ byteOfWord (wordOfBytes b0 b1 b2 b3) 1 = b1 ∧
    byteOfWord (wordOfBytes b0 b1 b2 b3) 2 = b2 ∧ byteOfWord (wordOfBytes b0 b1 b2 b3) 3 = b3 := by
  have h0 := b0.isLt; have h1 := b1.isLt; have h2 := b2.isLt; have h3 := b3.isLt
  refine ⟨?_, ?_, ?_, ?_⟩ <;> apply BitVec.eq_of_toNat_eq <;>
    simp only [toNat_byteOfWord, wordOfBytes, toNat_append_eq] <;> omega

/-- The decoder on the bytes of a word is the decoder on the word. -/
theorem decodeBytes_bytesOfWord (v : Word) :
    decodeBytes (bytesOfWord v) = match decode v with | .ok i => .ok (i, []) | .error e => .error (.word e) := by
  cases h : decode v <;> simp only [bytesOfWord, decodeBytes, wordOfBytes_byteOfWord, h]

/-- The decoder reads a table word laid out in memory order as it reads the word. -/
theorem decodeTableWord_eq (nbits w : Nat) : decodeTableWord nbits w = (decode (tableWord nbits w)).toOption := by
  rw [decodeTableWord, decodeBytes_bytesOfWord]
  generalize decode (tableWord nbits w) = r
  cases r <;> rfl

end Sys2Proof
end

