-- ==== Sys2Proof/Laws/State.lean ====
section
/-! SUPPORT. One lemma per field and update of State: what each shared update leaves alone (and, for the plain ones, what it
sets), so that no later proof unfolds a record update. -/

namespace Sys2Proof.Machine

/-! ## setPc -/

@[simp] theorem State.setPc_x (s : State) (a : Word) : (s.setPc a).x = s.x := rfl
@[simp] theorem State.setPc_f (s : State) (a : Word) : (s.setPc a).f = s.f := rfl
@[simp] theorem State.setPc_hi (s : State) (a : Word) : (s.setPc a).hi = s.hi := rfl
@[simp] theorem State.setPc_lo (s : State) (a : Word) : (s.setPc a).lo = s.lo := rfl
@[simp] theorem State.setPc_pc (s : State) (a : Word) : (s.setPc a).pc = a := rfl
@[simp] theorem State.setPc_ifId (s : State) (a : Word) : (s.setPc a).ifId = s.ifId := rfl
@[simp] theorem State.setPc_idEx (s : State) (a : Word) : (s.setPc a).idEx = s.idEx := rfl
@[simp] theorem State.setPc_exMem (s : State) (a : Word) : (s.setPc a).exMem = s.exMem := rfl
@[simp] theorem State.setPc_memWb (s : State) (a : Word) : (s.setPc a).memWb = s.memWb := rfl
@[simp] theorem State.setPc_stall (s : State) (a : Word) : (s.setPc a).stall = s.stall := rfl
@[simp] theorem State.setPc_syscallPending (s : State) (a : Word) : (s.setPc a).syscallPending = s.syscallPending := rfl
@[simp] theorem State.setPc_illegalPending (s : State) (a : Word) : (s.setPc a).illegalPending = s.illegalPending := rfl
@[simp] theorem State.setPc_bdPending (s : State) (a : Word) : (s.setPc a).bdPending = s.bdPending := rfl
@[simp] theorem State.setPc_bdTaken (s : State) (a : Word) : (s.setPc a).bdTaken = s.bdTaken := rfl
@[simp] theorem State.setPc_bdTarget (s : State) (a : Word) : (s.setPc a).bdTarget = s.bdTarget := rfl
@[simp] theorem State.setPc_booted (s : State) (a : Word) : (s.setPc a).booted = s.booted := rfl
@[simp] theorem State.setPc_exit (s : State) (a : Word) : (s.setPc a).exit = s.exit := rfl
@[simp] theorem State.setPc_haltReason (s : State) (a : Word) : (s.setPc a).haltReason = s.haltReason := rfl
@[simp] theorem State.setPc_fault (s : State) (a : Word) : (s.setPc a).fault = s.fault := rfl
@[simp] theorem State.setPc_nCycles (s : State) (a : Word) : (s.setPc a).nCycles = s.nCycles := rfl
@[simp] theorem State.setPc_nFetched (s : State) (a : Word) : (s.setPc a).nFetched = s.nFetched := rfl
@[simp] theorem State.setPc_nCondBranch (s : State) (a : Word) : (s.setPc a).nCondBranch = s.nCondBranch := rfl
@[simp] theorem State.setPc_nJal (s : State) (a : Word) : (s.setPc a).nJal = s.nJal := rfl
@[simp] theorem State.setPc_nJr (s : State) (a : Word) : (s.setPc a).nJr = s.nJr := rfl
@[simp] theorem State.setPc_nFp (s : State) (a : Word) : (s.setPc a).nFp = s.nFp := rfl
@[simp] theorem State.setPc_nLoad (s : State) (a : Word) : (s.setPc a).nLoad = s.nLoad := rfl
@[simp] theorem State.setPc_nStore (s : State) (a : Word) : (s.setPc a).nStore = s.nStore := rfl
@[simp] theorem State.setPc_mem (s : State) (a : Word) : (s.setPc a).mem = s.mem := rfl
@[simp] theorem State.setPc_fwdMode (s : State) (a : Word) : (s.setPc a).fwdMode = s.fwdMode := rfl
@[simp] theorem State.setPc_instrBudget (s : State) (a : Word) : (s.setPc a).instrBudget = s.instrBudget := rfl
@[simp] theorem State.setPc_draws (s : State) (a : Word) : (s.setPc a).draws = s.draws := rfl
@[simp] theorem State.setPc_lastTime (s : State) (a : Word) : (s.setPc a).lastTime = s.lastTime := rfl

/-! ## withMem -/

@[simp] theorem State.withMem_x (s : State) (m : Memory) : (s.withMem m).x = s.x := rfl
@[simp] theorem State.withMem_f (s : State) (m : Memory) : (s.withMem m).f = s.f := rfl
@[simp] theorem State.withMem_hi (s : State) (m : Memory) : (s.withMem m).hi = s.hi := rfl
@[simp] theorem State.withMem_lo (s : State) (m : Memory) : (s.withMem m).lo = s.lo := rfl
@[simp] theorem State.withMem_pc (s : State) (m : Memory) : (s.withMem m).pc = s.pc := rfl
@[simp] theorem State.withMem_ifId (s : State) (m : Memory) : (s.withMem m).ifId = s.ifId := rfl
@[simp] theorem State.withMem_idEx (s : State) (m : Memory) : (s.withMem m).idEx = s.idEx := rfl
@[simp] theorem State.withMem_exMem (s : State) (m : Memory) : (s.withMem m).exMem = s.exMem := rfl
@[simp] theorem State.withMem_memWb (s : State) (m : Memory) : (s.withMem m).memWb = s.memWb := rfl
@[simp] theorem State.withMem_stall (s : State) (m : Memory) : (s.withMem m).stall = s.stall := rfl
@[simp] theorem State.withMem_syscallPending (s : State) (m : Memory) : (s.withMem m).syscallPending = s.syscallPending := rfl
@[simp] theorem State.withMem_illegalPending (s : State) (m : Memory) : (s.withMem m).illegalPending = s.illegalPending := rfl
@[simp] theorem State.withMem_bdPending (s : State) (m : Memory) : (s.withMem m).bdPending = s.bdPending := rfl
@[simp] theorem State.withMem_bdTaken (s : State) (m : Memory) : (s.withMem m).bdTaken = s.bdTaken := rfl
@[simp] theorem State.withMem_bdTarget (s : State) (m : Memory) : (s.withMem m).bdTarget = s.bdTarget := rfl
@[simp] theorem State.withMem_booted (s : State) (m : Memory) : (s.withMem m).booted = s.booted := rfl
@[simp] theorem State.withMem_exit (s : State) (m : Memory) : (s.withMem m).exit = s.exit := rfl
@[simp] theorem State.withMem_haltReason (s : State) (m : Memory) : (s.withMem m).haltReason = s.haltReason := rfl
@[simp] theorem State.withMem_fault (s : State) (m : Memory) : (s.withMem m).fault = s.fault := rfl
@[simp] theorem State.withMem_nCycles (s : State) (m : Memory) : (s.withMem m).nCycles = s.nCycles := rfl
@[simp] theorem State.withMem_nFetched (s : State) (m : Memory) : (s.withMem m).nFetched = s.nFetched := rfl
@[simp] theorem State.withMem_nCondBranch (s : State) (m : Memory) : (s.withMem m).nCondBranch = s.nCondBranch := rfl
@[simp] theorem State.withMem_nJal (s : State) (m : Memory) : (s.withMem m).nJal = s.nJal := rfl
@[simp] theorem State.withMem_nJr (s : State) (m : Memory) : (s.withMem m).nJr = s.nJr := rfl
@[simp] theorem State.withMem_nFp (s : State) (m : Memory) : (s.withMem m).nFp = s.nFp := rfl
@[simp] theorem State.withMem_nLoad (s : State) (m : Memory) : (s.withMem m).nLoad = s.nLoad := rfl
@[simp] theorem State.withMem_nStore (s : State) (m : Memory) : (s.withMem m).nStore = s.nStore := rfl
@[simp] theorem State.withMem_mem (s : State) (m : Memory) : (s.withMem m).mem = m := rfl
@[simp] theorem State.withMem_fwdMode (s : State) (m : Memory) : (s.withMem m).fwdMode = s.fwdMode := rfl
@[simp] theorem State.withMem_instrBudget (s : State) (m : Memory) : (s.withMem m).instrBudget = s.instrBudget := rfl
@[simp] theorem State.withMem_draws (s : State) (m : Memory) : (s.withMem m).draws = s.draws := rfl
@[simp] theorem State.withMem_lastTime (s : State) (m : Memory) : (s.withMem m).lastTime = s.lastTime := rfl

/-! ## putIfId -/

@[simp] theorem State.putIfId_x (s : State) (p : PipeReg) : (s.putIfId p).x = s.x := rfl
@[simp] theorem State.putIfId_f (s : State) (p : PipeReg) : (s.putIfId p).f = s.f := rfl
@[simp] theorem State.putIfId_hi (s : State) (p : PipeReg) : (s.putIfId p).hi = s.hi := rfl
@[simp] theorem State.putIfId_lo (s : State) (p : PipeReg) : (s.putIfId p).lo = s.lo := rfl
@[simp] theorem State.putIfId_pc (s : State) (p : PipeReg) : (s.putIfId p).pc = s.pc := rfl
@[simp] theorem State.putIfId_ifId (s : State) (p : PipeReg) : (s.putIfId p).ifId = { s.ifId with nxt := p } := rfl
@[simp] theorem State.putIfId_idEx (s : State) (p : PipeReg) : (s.putIfId p).idEx = s.idEx := rfl
@[simp] theorem State.putIfId_exMem (s : State) (p : PipeReg) : (s.putIfId p).exMem = s.exMem := rfl
@[simp] theorem State.putIfId_memWb (s : State) (p : PipeReg) : (s.putIfId p).memWb = s.memWb := rfl
@[simp] theorem State.putIfId_stall (s : State) (p : PipeReg) : (s.putIfId p).stall = s.stall := rfl
@[simp] theorem State.putIfId_syscallPending (s : State) (p : PipeReg) : (s.putIfId p).syscallPending = s.syscallPending := rfl
@[simp] theorem State.putIfId_illegalPending (s : State) (p : PipeReg) : (s.putIfId p).illegalPending = s.illegalPending := rfl
@[simp] theorem State.putIfId_bdPending (s : State) (p : PipeReg) : (s.putIfId p).bdPending = s.bdPending := rfl
@[simp] theorem State.putIfId_bdTaken (s : State) (p : PipeReg) : (s.putIfId p).bdTaken = s.bdTaken := rfl
@[simp] theorem State.putIfId_bdTarget (s : State) (p : PipeReg) : (s.putIfId p).bdTarget = s.bdTarget := rfl
@[simp] theorem State.putIfId_booted (s : State) (p : PipeReg) : (s.putIfId p).booted = s.booted := rfl
@[simp] theorem State.putIfId_exit (s : State) (p : PipeReg) : (s.putIfId p).exit = s.exit := rfl
@[simp] theorem State.putIfId_haltReason (s : State) (p : PipeReg) : (s.putIfId p).haltReason = s.haltReason := rfl
@[simp] theorem State.putIfId_fault (s : State) (p : PipeReg) : (s.putIfId p).fault = s.fault := rfl
@[simp] theorem State.putIfId_nCycles (s : State) (p : PipeReg) : (s.putIfId p).nCycles = s.nCycles := rfl
@[simp] theorem State.putIfId_nFetched (s : State) (p : PipeReg) : (s.putIfId p).nFetched = s.nFetched := rfl
@[simp] theorem State.putIfId_nCondBranch (s : State) (p : PipeReg) : (s.putIfId p).nCondBranch = s.nCondBranch := rfl
@[simp] theorem State.putIfId_nJal (s : State) (p : PipeReg) : (s.putIfId p).nJal = s.nJal := rfl
@[simp] theorem State.putIfId_nJr (s : State) (p : PipeReg) : (s.putIfId p).nJr = s.nJr := rfl
@[simp] theorem State.putIfId_nFp (s : State) (p : PipeReg) : (s.putIfId p).nFp = s.nFp := rfl
@[simp] theorem State.putIfId_nLoad (s : State) (p : PipeReg) : (s.putIfId p).nLoad = s.nLoad := rfl
@[simp] theorem State.putIfId_nStore (s : State) (p : PipeReg) : (s.putIfId p).nStore = s.nStore := rfl
@[simp] theorem State.putIfId_mem (s : State) (p : PipeReg) : (s.putIfId p).mem = s.mem := rfl
@[simp] theorem State.putIfId_fwdMode (s : State) (p : PipeReg) : (s.putIfId p).fwdMode = s.fwdMode := rfl
@[simp] theorem State.putIfId_instrBudget (s : State) (p : PipeReg) : (s.putIfId p).instrBudget = s.instrBudget := rfl
@[simp] theorem State.putIfId_draws (s : State) (p : PipeReg) : (s.putIfId p).draws = s.draws := rfl
@[simp] theorem State.putIfId_lastTime (s : State) (p : PipeReg) : (s.putIfId p).lastTime = s.lastTime := rfl

/-! ## putIdEx -/

@[simp] theorem State.putIdEx_x (s : State) (p : PipeReg) : (s.putIdEx p).x = s.x := rfl
@[simp] theorem State.putIdEx_f (s : State) (p : PipeReg) : (s.putIdEx p).f = s.f := rfl
@[simp] theorem State.putIdEx_hi (s : State) (p : PipeReg) : (s.putIdEx p).hi = s.hi := rfl
@[simp] theorem State.putIdEx_lo (s : State) (p : PipeReg) : (s.putIdEx p).lo = s.lo := rfl
@[simp] theorem State.putIdEx_pc (s : State) (p : PipeReg) : (s.putIdEx p).pc = s.pc := rfl
@[simp] theorem State.putIdEx_ifId (s : State) (p : PipeReg) : (s.putIdEx p).ifId = s.ifId := rfl
@[simp] theorem State.putIdEx_idEx (s : State) (p : PipeReg) : (s.putIdEx p).idEx = { s.idEx with nxt := p } := rfl
@[simp] theorem State.putIdEx_exMem (s : State) (p : PipeReg) : (s.putIdEx p).exMem = s.exMem := rfl
@[simp] theorem State.putIdEx_memWb (s : State) (p : PipeReg) : (s.putIdEx p).memWb = s.memWb := rfl
@[simp] theorem State.putIdEx_stall (s : State) (p : PipeReg) : (s.putIdEx p).stall = s.stall := rfl
@[simp] theorem State.putIdEx_syscallPending (s : State) (p : PipeReg) : (s.putIdEx p).syscallPending = s.syscallPending := rfl
@[simp] theorem State.putIdEx_illegalPending (s : State) (p : PipeReg) : (s.putIdEx p).illegalPending = s.illegalPending := rfl
@[simp] theorem State.putIdEx_bdPending (s : State) (p : PipeReg) : (s.putIdEx p).bdPending = s.bdPending := rfl
@[simp] theorem State.putIdEx_bdTaken (s : State) (p : PipeReg) : (s.putIdEx p).bdTaken = s.bdTaken := rfl
@[simp] theorem State.putIdEx_bdTarget (s : State) (p : PipeReg) : (s.putIdEx p).bdTarget = s.bdTarget := rfl
@[simp] theorem State.putIdEx_booted (s : State) (p : PipeReg) : (s.putIdEx p).booted = s.booted := rfl
@[simp] theorem State.putIdEx_exit (s : State) (p : PipeReg) : (s.putIdEx p).exit = s.exit := rfl
@[simp] theorem State.putIdEx_haltReason (s : State) (p : PipeReg) : (s.putIdEx p).haltReason = s.haltReason := rfl
@[simp] theorem State.putIdEx_fault (s : State) (p : PipeReg) : (s.putIdEx p).fault = s.fault := rfl
@[simp] theorem State.putIdEx_nCycles (s : State) (p : PipeReg) : (s.putIdEx p).nCycles = s.nCycles := rfl
@[simp] theorem State.putIdEx_nFetched (s : State) (p : PipeReg) : (s.putIdEx p).nFetched = s.nFetched := rfl
@[simp] theorem State.putIdEx_nCondBranch (s : State) (p : PipeReg) : (s.putIdEx p).nCondBranch = s.nCondBranch := rfl
@[simp] theorem State.putIdEx_nJal (s : State) (p : PipeReg) : (s.putIdEx p).nJal = s.nJal := rfl
@[simp] theorem State.putIdEx_nJr (s : State) (p : PipeReg) : (s.putIdEx p).nJr = s.nJr := rfl
@[simp] theorem State.putIdEx_nFp (s : State) (p : PipeReg) : (s.putIdEx p).nFp = s.nFp := rfl
@[simp] theorem State.putIdEx_nLoad (s : State) (p : PipeReg) : (s.putIdEx p).nLoad = s.nLoad := rfl
@[simp] theorem State.putIdEx_nStore (s : State) (p : PipeReg) : (s.putIdEx p).nStore = s.nStore := rfl
@[simp] theorem State.putIdEx_mem (s : State) (p : PipeReg) : (s.putIdEx p).mem = s.mem := rfl
@[simp] theorem State.putIdEx_fwdMode (s : State) (p : PipeReg) : (s.putIdEx p).fwdMode = s.fwdMode := rfl
@[simp] theorem State.putIdEx_instrBudget (s : State) (p : PipeReg) : (s.putIdEx p).instrBudget = s.instrBudget := rfl
@[simp] theorem State.putIdEx_draws (s : State) (p : PipeReg) : (s.putIdEx p).draws = s.draws := rfl
@[simp] theorem State.putIdEx_lastTime (s : State) (p : PipeReg) : (s.putIdEx p).lastTime = s.lastTime := rfl

/-! ## putExMem -/

@[simp] theorem State.putExMem_x (s : State) (p : PipeReg) : (s.putExMem p).x = s.x := rfl
@[simp] theorem State.putExMem_f (s : State) (p : PipeReg) : (s.putExMem p).f = s.f := rfl
@[simp] theorem State.putExMem_hi (s : State) (p : PipeReg) : (s.putExMem p).hi = s.hi := rfl
@[simp] theorem State.putExMem_lo (s : State) (p : PipeReg) : (s.putExMem p).lo = s.lo := rfl
@[simp] theorem State.putExMem_pc (s : State) (p : PipeReg) : (s.putExMem p).pc = s.pc := rfl
@[simp] theorem State.putExMem_ifId (s : State) (p : PipeReg) : (s.putExMem p).ifId = s.ifId := rfl
@[simp] theorem State.putExMem_idEx (s : State) (p : PipeReg) : (s.putExMem p).idEx = s.idEx := rfl
@[simp] theorem State.putExMem_exMem (s : State) (p : PipeReg) : (s.putExMem p).exMem = { s.exMem with nxt := p } := rfl
@[simp] theorem State.putExMem_memWb (s : State) (p : PipeReg) : (s.putExMem p).memWb = s.memWb := rfl
@[simp] theorem State.putExMem_stall (s : State) (p : PipeReg) : (s.putExMem p).stall = s.stall := rfl
@[simp] theorem State.putExMem_syscallPending (s : State) (p : PipeReg) : (s.putExMem p).syscallPending = s.syscallPending := rfl
@[simp] theorem State.putExMem_illegalPending (s : State) (p : PipeReg) : (s.putExMem p).illegalPending = s.illegalPending := rfl
@[simp] theorem State.putExMem_bdPending (s : State) (p : PipeReg) : (s.putExMem p).bdPending = s.bdPending := rfl
@[simp] theorem State.putExMem_bdTaken (s : State) (p : PipeReg) : (s.putExMem p).bdTaken = s.bdTaken := rfl
@[simp] theorem State.putExMem_bdTarget (s : State) (p : PipeReg) : (s.putExMem p).bdTarget = s.bdTarget := rfl
@[simp] theorem State.putExMem_booted (s : State) (p : PipeReg) : (s.putExMem p).booted = s.booted := rfl
@[simp] theorem State.putExMem_exit (s : State) (p : PipeReg) : (s.putExMem p).exit = s.exit := rfl
@[simp] theorem State.putExMem_haltReason (s : State) (p : PipeReg) : (s.putExMem p).haltReason = s.haltReason := rfl
@[simp] theorem State.putExMem_fault (s : State) (p : PipeReg) : (s.putExMem p).fault = s.fault := rfl
@[simp] theorem State.putExMem_nCycles (s : State) (p : PipeReg) : (s.putExMem p).nCycles = s.nCycles := rfl
@[simp] theorem State.putExMem_nFetched (s : State) (p : PipeReg) : (s.putExMem p).nFetched = s.nFetched := rfl
@[simp] theorem State.putExMem_nCondBranch (s : State) (p : PipeReg) : (s.putExMem p).nCondBranch = s.nCondBranch := rfl
@[simp] theorem State.putExMem_nJal (s : State) (p : PipeReg) : (s.putExMem p).nJal = s.nJal := rfl
@[simp] theorem State.putExMem_nJr (s : State) (p : PipeReg) : (s.putExMem p).nJr = s.nJr := rfl
@[simp] theorem State.putExMem_nFp (s : State) (p : PipeReg) : (s.putExMem p).nFp = s.nFp := rfl
@[simp] theorem State.putExMem_nLoad (s : State) (p : PipeReg) : (s.putExMem p).nLoad = s.nLoad := rfl
@[simp] theorem State.putExMem_nStore (s : State) (p : PipeReg) : (s.putExMem p).nStore = s.nStore := rfl
@[simp] theorem State.putExMem_mem (s : State) (p : PipeReg) : (s.putExMem p).mem = s.mem := rfl
@[simp] theorem State.putExMem_fwdMode (s : State) (p : PipeReg) : (s.putExMem p).fwdMode = s.fwdMode := rfl
@[simp] theorem State.putExMem_instrBudget (s : State) (p : PipeReg) : (s.putExMem p).instrBudget = s.instrBudget := rfl
@[simp] theorem State.putExMem_draws (s : State) (p : PipeReg) : (s.putExMem p).draws = s.draws := rfl
@[simp] theorem State.putExMem_lastTime (s : State) (p : PipeReg) : (s.putExMem p).lastTime = s.lastTime := rfl

/-! ## putMemWb -/

@[simp] theorem State.putMemWb_x (s : State) (p : PipeReg) : (s.putMemWb p).x = s.x := rfl
@[simp] theorem State.putMemWb_f (s : State) (p : PipeReg) : (s.putMemWb p).f = s.f := rfl
@[simp] theorem State.putMemWb_hi (s : State) (p : PipeReg) : (s.putMemWb p).hi = s.hi := rfl
@[simp] theorem State.putMemWb_lo (s : State) (p : PipeReg) : (s.putMemWb p).lo = s.lo := rfl
@[simp] theorem State.putMemWb_pc (s : State) (p : PipeReg) : (s.putMemWb p).pc = s.pc := rfl
@[simp] theorem State.putMemWb_ifId (s : State) (p : PipeReg) : (s.putMemWb p).ifId = s.ifId := rfl
@[simp] theorem State.putMemWb_idEx (s : State) (p : PipeReg) : (s.putMemWb p).idEx = s.idEx := rfl
@[simp] theorem State.putMemWb_exMem (s : State) (p : PipeReg) : (s.putMemWb p).exMem = s.exMem := rfl
@[simp] theorem State.putMemWb_memWb (s : State) (p : PipeReg) : (s.putMemWb p).memWb = { s.memWb with nxt := p } := rfl
@[simp] theorem State.putMemWb_stall (s : State) (p : PipeReg) : (s.putMemWb p).stall = s.stall := rfl
@[simp] theorem State.putMemWb_syscallPending (s : State) (p : PipeReg) : (s.putMemWb p).syscallPending = s.syscallPending := rfl
@[simp] theorem State.putMemWb_illegalPending (s : State) (p : PipeReg) : (s.putMemWb p).illegalPending = s.illegalPending := rfl
@[simp] theorem State.putMemWb_bdPending (s : State) (p : PipeReg) : (s.putMemWb p).bdPending = s.bdPending := rfl
@[simp] theorem State.putMemWb_bdTaken (s : State) (p : PipeReg) : (s.putMemWb p).bdTaken = s.bdTaken := rfl
@[simp] theorem State.putMemWb_bdTarget (s : State) (p : PipeReg) : (s.putMemWb p).bdTarget = s.bdTarget := rfl
@[simp] theorem State.putMemWb_booted (s : State) (p : PipeReg) : (s.putMemWb p).booted = s.booted := rfl
@[simp] theorem State.putMemWb_exit (s : State) (p : PipeReg) : (s.putMemWb p).exit = s.exit := rfl
@[simp] theorem State.putMemWb_haltReason (s : State) (p : PipeReg) : (s.putMemWb p).haltReason = s.haltReason := rfl
@[simp] theorem State.putMemWb_fault (s : State) (p : PipeReg) : (s.putMemWb p).fault = s.fault := rfl
@[simp] theorem State.putMemWb_nCycles (s : State) (p : PipeReg) : (s.putMemWb p).nCycles = s.nCycles := rfl
@[simp] theorem State.putMemWb_nFetched (s : State) (p : PipeReg) : (s.putMemWb p).nFetched = s.nFetched := rfl
@[simp] theorem State.putMemWb_nCondBranch (s : State) (p : PipeReg) : (s.putMemWb p).nCondBranch = s.nCondBranch := rfl
@[simp] theorem State.putMemWb_nJal (s : State) (p : PipeReg) : (s.putMemWb p).nJal = s.nJal := rfl
@[simp] theorem State.putMemWb_nJr (s : State) (p : PipeReg) : (s.putMemWb p).nJr = s.nJr := rfl
@[simp] theorem State.putMemWb_nFp (s : State) (p : PipeReg) : (s.putMemWb p).nFp = s.nFp := rfl
@[simp] theorem State.putMemWb_nLoad (s : State) (p : PipeReg) : (s.putMemWb p).nLoad = s.nLoad := rfl
@[simp] theorem State.putMemWb_nStore (s : State) (p : PipeReg) : (s.putMemWb p).nStore = s.nStore := rfl
@[simp] theorem State.putMemWb_mem (s : State) (p : PipeReg) : (s.putMemWb p).mem = s.mem := rfl
@[simp] theorem State.putMemWb_fwdMode (s : State) (p : PipeReg) : (s.putMemWb p).fwdMode = s.fwdMode := rfl
@[simp] theorem State.putMemWb_instrBudget (s : State) (p : PipeReg) : (s.putMemWb p).instrBudget = s.instrBudget := rfl
@[simp] theorem State.putMemWb_draws (s : State) (p : PipeReg) : (s.putMemWb p).draws = s.draws := rfl
@[simp] theorem State.putMemWb_lastTime (s : State) (p : PipeReg) : (s.putMemWb p).lastTime = s.lastTime := rfl

/-! ## setStall -/

@[simp] theorem State.setStall_x (s : State) (b : Bool) : (s.setStall b).x = s.x := rfl
@[simp] theorem State.setStall_f (s : State) (b : Bool) : (s.setStall b).f = s.f := rfl
@[simp] theorem State.setStall_hi (s : State) (b : Bool) : (s.setStall b).hi = s.hi := rfl
@[simp] theorem State.setStall_lo (s : State) (b : Bool) : (s.setStall b).lo = s.lo := rfl
@[simp] theorem State.setStall_pc (s : State) (b : Bool) : (s.setStall b).pc = s.pc := rfl
@[simp] theorem State.setStall_ifId (s : State) (b : Bool) : (s.setStall b).ifId = s.ifId := rfl
@[simp] theorem State.setStall_idEx (s : State) (b : Bool) : (s.setStall b).idEx = s.idEx := rfl
@[simp] theorem State.setStall_exMem (s : State) (b : Bool) : (s.setStall b).exMem = s.exMem := rfl
@[simp] theorem State.setStall_memWb (s : State) (b : Bool) : (s.setStall b).memWb = s.memWb := rfl
@[simp] theorem State.setStall_stall (s : State) (b : Bool) : (s.setStall b).stall = b := rfl
@[simp] theorem State.setStall_syscallPending (s : State) (b : Bool) : (s.setStall b).syscallPending = s.syscallPending := rfl
@[simp] theorem State.setStall_illegalPending (s : State) (b : Bool) : (s.setStall b).illegalPending = s.illegalPending := rfl
@[simp] theorem State.setStall_bdPending (s : State) (b : Bool) : (s.setStall b).bdPending = s.bdPending := rfl
@[simp] theorem State.setStall_bdTaken (s : State) (b : Bool) : (s.setStall b).bdTaken = s.bdTaken := rfl
@[simp] theorem State.setStall_bdTarget (s : State) (b : Bool) : (s.setStall b).bdTarget = s.bdTarget := rfl
@[simp] theorem State.setStall_booted (s : State) (b : Bool) : (s.setStall b).booted = s.booted := rfl
@[simp] theorem State.setStall_exit (s : State) (b : Bool) : (s.setStall b).exit = s.exit := rfl
@[simp] theorem State.setStall_haltReason (s : State) (b : Bool) : (s.setStall b).haltReason = s.haltReason := rfl
@[simp] theorem State.setStall_fault (s : State) (b : Bool) : (s.setStall b).fault = s.fault := rfl
@[simp] theorem State.setStall_nCycles (s : State) (b : Bool) : (s.setStall b).nCycles = s.nCycles := rfl
@[simp] theorem State.setStall_nFetched (s : State) (b : Bool) : (s.setStall b).nFetched = s.nFetched := rfl
@[simp] theorem State.setStall_nCondBranch (s : State) (b : Bool) : (s.setStall b).nCondBranch = s.nCondBranch := rfl
@[simp] theorem State.setStall_nJal (s : State) (b : Bool) : (s.setStall b).nJal = s.nJal := rfl
@[simp] theorem State.setStall_nJr (s : State) (b : Bool) : (s.setStall b).nJr = s.nJr := rfl
@[simp] theorem State.setStall_nFp (s : State) (b : Bool) : (s.setStall b).nFp = s.nFp := rfl
@[simp] theorem State.setStall_nLoad (s : State) (b : Bool) : (s.setStall b).nLoad = s.nLoad := rfl
@[simp] theorem State.setStall_nStore (s : State) (b : Bool) : (s.setStall b).nStore = s.nStore := rfl
@[simp] theorem State.setStall_mem (s : State) (b : Bool) : (s.setStall b).mem = s.mem := rfl
@[simp] theorem State.setStall_fwdMode (s : State) (b : Bool) : (s.setStall b).fwdMode = s.fwdMode := rfl
@[simp] theorem State.setStall_instrBudget (s : State) (b : Bool) : (s.setStall b).instrBudget = s.instrBudget := rfl
@[simp] theorem State.setStall_draws (s : State) (b : Bool) : (s.setStall b).draws = s.draws := rfl
@[simp] theorem State.setStall_lastTime (s : State) (b : Bool) : (s.setStall b).lastTime = s.lastTime := rfl

/-! ## raiseSyscall -/

@[simp] theorem State.raiseSyscall_x (s : State) (b : Bool) : (s.raiseSyscall b).x = s.x := rfl
@[simp] theorem State.raiseSyscall_f (s : State) (b : Bool) : (s.raiseSyscall b).f = s.f := rfl
@[simp] theorem State.raiseSyscall_hi (s : State) (b : Bool) : (s.raiseSyscall b).hi = s.hi := rfl
@[simp] theorem State.raiseSyscall_lo (s : State) (b : Bool) : (s.raiseSyscall b).lo = s.lo := rfl
@[simp] theorem State.raiseSyscall_pc (s : State) (b : Bool) : (s.raiseSyscall b).pc = s.pc := rfl
@[simp] theorem State.raiseSyscall_ifId (s : State) (b : Bool) : (s.raiseSyscall b).ifId = s.ifId := rfl
@[simp] theorem State.raiseSyscall_idEx (s : State) (b : Bool) : (s.raiseSyscall b).idEx = s.idEx := rfl
@[simp] theorem State.raiseSyscall_exMem (s : State) (b : Bool) : (s.raiseSyscall b).exMem = s.exMem := rfl
@[simp] theorem State.raiseSyscall_memWb (s : State) (b : Bool) : (s.raiseSyscall b).memWb = s.memWb := rfl
@[simp] theorem State.raiseSyscall_stall (s : State) (b : Bool) : (s.raiseSyscall b).stall = s.stall := rfl
@[simp] theorem State.raiseSyscall_syscallPending (s : State) (b : Bool) : (s.raiseSyscall b).syscallPending = (b || s.syscallPending) := rfl
@[simp] theorem State.raiseSyscall_illegalPending (s : State) (b : Bool) : (s.raiseSyscall b).illegalPending = s.illegalPending := rfl
@[simp] theorem State.raiseSyscall_bdPending (s : State) (b : Bool) : (s.raiseSyscall b).bdPending = s.bdPending := rfl
@[simp] theorem State.raiseSyscall_bdTaken (s : State) (b : Bool) : (s.raiseSyscall b).bdTaken = s.bdTaken := rfl
@[simp] theorem State.raiseSyscall_bdTarget (s : State) (b : Bool) : (s.raiseSyscall b).bdTarget = s.bdTarget := rfl
@[simp] theorem State.raiseSyscall_booted (s : State) (b : Bool) : (s.raiseSyscall b).booted = s.booted := rfl
@[simp] theorem State.raiseSyscall_exit (s : State) (b : Bool) : (s.raiseSyscall b).exit = s.exit := rfl
@[simp] theorem State.raiseSyscall_haltReason (s : State) (b : Bool) : (s.raiseSyscall b).haltReason = s.haltReason := rfl
@[simp] theorem State.raiseSyscall_fault (s : State) (b : Bool) : (s.raiseSyscall b).fault = s.fault := rfl
@[simp] theorem State.raiseSyscall_nCycles (s : State) (b : Bool) : (s.raiseSyscall b).nCycles = s.nCycles := rfl
@[simp] theorem State.raiseSyscall_nFetched (s : State) (b : Bool) : (s.raiseSyscall b).nFetched = s.nFetched := rfl
@[simp] theorem State.raiseSyscall_nCondBranch (s : State) (b : Bool) : (s.raiseSyscall b).nCondBranch = s.nCondBranch := rfl
@[simp] theorem State.raiseSyscall_nJal (s : State) (b : Bool) : (s.raiseSyscall b).nJal = s.nJal := rfl
@[simp] theorem State.raiseSyscall_nJr (s : State) (b : Bool) : (s.raiseSyscall b).nJr = s.nJr := rfl
@[simp] theorem State.raiseSyscall_nFp (s : State) (b : Bool) : (s.raiseSyscall b).nFp = s.nFp := rfl
@[simp] theorem State.raiseSyscall_nLoad (s : State) (b : Bool) : (s.raiseSyscall b).nLoad = s.nLoad := rfl
@[simp] theorem State.raiseSyscall_nStore (s : State) (b : Bool) : (s.raiseSyscall b).nStore = s.nStore := rfl
@[simp] theorem State.raiseSyscall_mem (s : State) (b : Bool) : (s.raiseSyscall b).mem = s.mem := rfl
@[simp] theorem State.raiseSyscall_fwdMode (s : State) (b : Bool) : (s.raiseSyscall b).fwdMode = s.fwdMode := rfl
@[simp] theorem State.raiseSyscall_instrBudget (s : State) (b : Bool) : (s.raiseSyscall b).instrBudget = s.instrBudget := rfl
@[simp] theorem State.raiseSyscall_draws (s : State) (b : Bool) : (s.raiseSyscall b).draws = s.draws := rfl
@[simp] theorem State.raiseSyscall_lastTime (s : State) (b : Bool) : (s.raiseSyscall b).lastTime = s.lastTime := rfl

/-! ## raiseIllegal -/

@[simp] theorem State.raiseIllegal_x (s : State) : s.raiseIllegal.x = s.x := rfl
@[simp] theorem State.raiseIllegal_f (s : State) : s.raiseIllegal.f = s.f := rfl
@[simp] theorem State.raiseIllegal_hi (s : State) : s.raiseIllegal.hi = s.hi := rfl
@[simp] theorem State.raiseIllegal_lo (s : State) : s.raiseIllegal.lo = s.lo := rfl
@[simp] theorem State.raiseIllegal_pc (s : State) : s.raiseIllegal.pc = s.pc := rfl
@[simp] theorem State.raiseIllegal_ifId (s : State) : s.raiseIllegal.ifId = s.ifId := rfl
@[simp] theorem State.raiseIllegal_idEx (s : State) : s.raiseIllegal.idEx = s.idEx := rfl
@[simp] theorem State.raiseIllegal_exMem (s : State) : s.raiseIllegal.exMem = s.exMem := rfl
@[simp] theorem State.raiseIllegal_memWb (s : State) : s.raiseIllegal.memWb = s.memWb := rfl
@[simp] theorem State.raiseIllegal_stall (s : State) : s.raiseIllegal.stall = s.stall := rfl
@[simp] theorem State.raiseIllegal_syscallPending (s : State) : s.raiseIllegal.syscallPending = s.syscallPending := rfl
@[simp] theorem State.raiseIllegal_illegalPending (s : State) : s.raiseIllegal.illegalPending = true := rfl
@[simp] theorem State.raiseIllegal_bdPending (s : State) : s.raiseIllegal.bdPending = s.bdPending := rfl
@[simp] theorem State.raiseIllegal_bdTaken (s : State) : s.raiseIllegal.bdTaken = s.bdTaken := rfl
@[simp] theorem State.raiseIllegal_bdTarget (s : State) : s.raiseIllegal.bdTarget = s.bdTarget := rfl
@[simp] theorem State.raiseIllegal_booted (s : State) : s.raiseIllegal.booted = s.booted := rfl
@[simp] theorem State.raiseIllegal_exit (s : State) : s.raiseIllegal.exit = s.exit := rfl
@[simp] theorem State.raiseIllegal_haltReason (s : State) : s.raiseIllegal.haltReason = s.haltReason := rfl
@[simp] theorem State.raiseIllegal_fault (s : State) : s.raiseIllegal.fault = s.fault := rfl
@[simp] theorem State.raiseIllegal_nCycles (s : State) : s.raiseIllegal.nCycles = s.nCycles := rfl
@[simp] theorem State.raiseIllegal_nFetched (s : State) : s.raiseIllegal.nFetched = s.nFetched := rfl
@[simp] theorem State.raiseIllegal_nCondBranch (s : State) : s.raiseIllegal.nCondBranch = s.nCondBranch := rfl
@[simp] theorem State.raiseIllegal_nJal (s : State) : s.raiseIllegal.nJal = s.nJal := rfl
@[simp] theorem State.raiseIllegal_nJr (s : State) : s.raiseIllegal.nJr = s.nJr := rfl
@[simp] theorem State.raiseIllegal_nFp (s : State) : s.raiseIllegal.nFp = s.nFp := rfl
@[simp] theorem State.raiseIllegal_nLoad (s : State) : s.raiseIllegal.nLoad = s.nLoad := rfl
@[simp] theorem State.raiseIllegal_nStore (s : State) : s.raiseIllegal.nStore = s.nStore := rfl
@[simp] theorem State.raiseIllegal_mem (s : State) : s.raiseIllegal.mem = s.mem := rfl
@[simp] theorem State.raiseIllegal_fwdMode (s : State) : s.raiseIllegal.fwdMode = s.fwdMode := rfl
@[simp] theorem State.raiseIllegal_instrBudget (s : State) : s.raiseIllegal.instrBudget = s.instrBudget := rfl
@[simp] theorem State.raiseIllegal_draws (s : State) : s.raiseIllegal.draws = s.draws := rfl
@[simp] theorem State.raiseIllegal_lastTime (s : State) : s.raiseIllegal.lastTime = s.lastTime := rfl

/-! ## countFetch -/

@[simp] theorem State.countFetch_x (s : State) : s.countFetch.x = s.x := rfl
@[simp] theorem State.countFetch_f (s : State) : s.countFetch.f = s.f := rfl
@[simp] theorem State.countFetch_hi (s : State) : s.countFetch.hi = s.hi := rfl
@[simp] theorem State.countFetch_lo (s : State) : s.countFetch.lo = s.lo := rfl
@[simp] theorem State.countFetch_pc (s : State) : s.countFetch.pc = s.pc := rfl
@[simp] theorem State.countFetch_ifId (s : State) : s.countFetch.ifId = s.ifId := rfl
@[simp] theorem State.countFetch_idEx (s : State) : s.countFetch.idEx = s.idEx := rfl
@[simp] theorem State.countFetch_exMem (s : State) : s.countFetch.exMem = s.exMem := rfl
@[simp] theorem State.countFetch_memWb (s : State) : s.countFetch.memWb = s.memWb := rfl
@[simp] theorem State.countFetch_stall (s : State) : s.countFetch.stall = s.stall := rfl
@[simp] theorem State.countFetch_syscallPending (s : State) : s.countFetch.syscallPending = s.syscallPending := rfl
@[simp] theorem State.countFetch_illegalPending (s : State) : s.countFetch.illegalPending = s.illegalPending := rfl
@[simp] theorem State.countFetch_bdPending (s : State) : s.countFetch.bdPending = s.bdPending := rfl
@[simp] theorem State.countFetch_bdTaken (s : State) : s.countFetch.bdTaken = s.bdTaken := rfl
@[simp] theorem State.countFetch_bdTarget (s : State) : s.countFetch.bdTarget = s.bdTarget := rfl
@[simp] theorem State.countFetch_booted (s : State) : s.countFetch.booted = s.booted := rfl
@[simp] theorem State.countFetch_exit (s : State) : s.countFetch.exit = s.exit := rfl
@[simp] theorem State.countFetch_haltReason (s : State) : s.countFetch.haltReason = s.haltReason := rfl
@[simp] theorem State.countFetch_fault (s : State) : s.countFetch.fault = s.fault := rfl
@[simp] theorem State.countFetch_nCycles (s : State) : s.countFetch.nCycles = s.nCycles := rfl
@[simp] theorem State.countFetch_nFetched (s : State) : s.countFetch.nFetched = s.nFetched + 1 := rfl
@[simp] theorem State.countFetch_nCondBranch (s : State) : s.countFetch.nCondBranch = s.nCondBranch := rfl
@[simp] theorem State.countFetch_nJal (s : State) : s.countFetch.nJal = s.nJal := rfl
@[simp] theorem State.countFetch_nJr (s : State) : s.countFetch.nJr = s.nJr := rfl
@[simp] theorem State.countFetch_nFp (s : State) : s.countFetch.nFp = s.nFp := rfl
@[simp] theorem State.countFetch_nLoad (s : State) : s.countFetch.nLoad = s.nLoad := rfl
@[simp] theorem State.countFetch_nStore (s : State) : s.countFetch.nStore = s.nStore := rfl
@[simp] theorem State.countFetch_mem (s : State) : s.countFetch.mem = s.mem := rfl
@[simp] theorem State.countFetch_fwdMode (s : State) : s.countFetch.fwdMode = s.fwdMode := rfl
@[simp] theorem State.countFetch_instrBudget (s : State) : s.countFetch.instrBudget = s.instrBudget := rfl
@[simp] theorem State.countFetch_draws (s : State) : s.countFetch.draws = s.draws := rfl
@[simp] theorem State.countFetch_lastTime (s : State) : s.countFetch.lastTime = s.lastTime := rfl

/-! ## countCycle -/

@[simp] theorem State.countCycle_x (s : State) : s.countCycle.x = s.x := rfl
@[simp] theorem State.countCycle_f (s : State) : s.countCycle.f = s.f := rfl
@[simp] theorem State.countCycle_hi (s : State) : s.countCycle.hi = s.hi := rfl
@[simp] theorem State.countCycle_lo (s : State) : s.countCycle.lo = s.lo := rfl
@[simp] theorem State.countCycle_pc (s : State) : s.countCycle.pc = s.pc := rfl
@[simp] theorem State.countCycle_ifId (s : State) : s.countCycle.ifId = s.ifId := rfl
@[simp] theorem State.countCycle_idEx (s : State) : s.countCycle.idEx = s.idEx := rfl
@[simp] theorem State.countCycle_exMem (s : State) : s.countCycle.exMem = s.exMem := rfl
@[simp] theorem State.countCycle_memWb (s : State) : s.countCycle.memWb = s.memWb := rfl
@[simp] theorem State.countCycle_stall (s : State) : s.countCycle.stall = s.stall := rfl
@[simp] theorem State.countCycle_syscallPending (s : State) : s.countCycle.syscallPending = s.syscallPending := rfl
@[simp] theorem State.countCycle_illegalPending (s : State) : s.countCycle.illegalPending = s.illegalPending := rfl
@[simp] theorem State.countCycle_bdPending (s : State) : s.countCycle.bdPending = s.bdPending := rfl
@[simp] theorem State.countCycle_bdTaken (s : State) : s.countCycle.bdTaken = s.bdTaken := rfl
@[simp] theorem State.countCycle_bdTarget (s : State) : s.countCycle.bdTarget = s.bdTarget := rfl
@[simp] theorem State.countCycle_booted (s : State) : s.countCycle.booted = s.booted := rfl
@[simp] theorem State.countCycle_exit (s : State) : s.countCycle.exit = s.exit := rfl
@[simp] theorem State.countCycle_haltReason (s : State) : s.countCycle.haltReason = s.haltReason := rfl
@[simp] theorem State.countCycle_fault (s : State) : s.countCycle.fault = s.fault := rfl
@[simp] theorem State.countCycle_nCycles (s : State) : s.countCycle.nCycles = s.nCycles + 1 := rfl
@[simp] theorem State.countCycle_nFetched (s : State) : s.countCycle.nFetched = s.nFetched := rfl
@[simp] theorem State.countCycle_nCondBranch (s : State) : s.countCycle.nCondBranch = s.nCondBranch := rfl
@[simp] theorem State.countCycle_nJal (s : State) : s.countCycle.nJal = s.nJal := rfl
@[simp] theorem State.countCycle_nJr (s : State) : s.countCycle.nJr = s.nJr := rfl
@[simp] theorem State.countCycle_nFp (s : State) : s.countCycle.nFp = s.nFp := rfl
@[simp] theorem State.countCycle_nLoad (s : State) : s.countCycle.nLoad = s.nLoad := rfl
@[simp] theorem State.countCycle_nStore (s : State) : s.countCycle.nStore = s.nStore := rfl
@[simp] theorem State.countCycle_mem (s : State) : s.countCycle.mem = s.mem := rfl
@[simp] theorem State.countCycle_fwdMode (s : State) : s.countCycle.fwdMode = s.fwdMode := rfl
@[simp] theorem State.countCycle_instrBudget (s : State) : s.countCycle.instrBudget = s.instrBudget := rfl
@[simp] theorem State.countCycle_draws (s : State) : s.countCycle.draws = s.draws := rfl
@[simp] theorem State.countCycle_lastTime (s : State) : s.countCycle.lastTime = s.lastTime := rfl

/-! ## latch -/

@[simp] theorem State.latch_x (s : State) : s.latch.x = s.x := rfl
@[simp] theorem State.latch_f (s : State) : s.latch.f = s.f := rfl
@[simp] theorem State.latch_hi (s : State) : s.latch.hi = s.hi := rfl
@[simp] theorem State.latch_lo (s : State) : s.latch.lo = s.lo := rfl
@[simp] theorem State.latch_pc (s : State) : s.latch.pc = s.pc := rfl
@[simp] theorem State.latch_ifId (s : State) : s.latch.ifId = s.ifId.commit := rfl
@[simp] theorem State.latch_idEx (s : State) : s.latch.idEx = s.idEx.commit := rfl
@[simp] theorem State.latch_exMem (s : State) : s.latch.exMem = s.exMem.commit := rfl
@[simp] theorem State.latch_memWb (s : State) : s.latch.memWb = s.memWb.commit := rfl
@[simp] theorem State.latch_stall (s : State) : s.latch.stall = s.stall := rfl
@[simp] theorem State.latch_syscallPending (s : State) : s.latch.syscallPending = s.syscallPending := rfl
@[simp] theorem State.latch_illegalPending (s : State) : s.latch.illegalPending = s.illegalPending := rfl
@[simp] theorem State.latch_bdPending (s : State) : s.latch.bdPending = s.bdPending := rfl
@[simp] theorem State.latch_bdTaken (s : State) : s.latch.bdTaken = s.bdTaken := rfl
@[simp] theorem State.latch_bdTarget (s : State) : s.latch.bdTarget = s.bdTarget := rfl
@[simp] theorem State.latch_booted (s : State) : s.latch.booted = s.booted := rfl
@[simp] theorem State.latch_exit (s : State) : s.latch.exit = s.exit := rfl
@[simp] theorem State.latch_haltReason (s : State) : s.latch.haltReason = s.haltReason := rfl
@[simp] theorem State.latch_fault (s : State) : s.latch.fault = s.fault := rfl
@[simp] theorem State.latch_nCycles (s : State) : s.latch.nCycles = s.nCycles := rfl
@[simp] theorem State.latch_nFetched (s : State) : s.latch.nFetched = s.nFetched := rfl
@[simp] theorem State.latch_nCondBranch (s : State) : s.latch.nCondBranch = s.nCondBranch := rfl
@[simp] theorem State.latch_nJal (s : State) : s.latch.nJal = s.nJal := rfl
@[simp] theorem State.latch_nJr (s : State) : s.latch.nJr = s.nJr := rfl
@[simp] theorem State.latch_nFp (s : State) : s.latch.nFp = s.nFp := rfl
@[simp] theorem State.latch_nLoad (s : State) : s.latch.nLoad = s.nLoad := rfl
@[simp] theorem State.latch_nStore (s : State) : s.latch.nStore = s.nStore := rfl
@[simp] theorem State.latch_mem (s : State) : s.latch.mem = s.mem := rfl
@[simp] theorem State.latch_fwdMode (s : State) : s.latch.fwdMode = s.fwdMode := rfl
@[simp] theorem State.latch_instrBudget (s : State) : s.latch.instrBudget = s.instrBudget := rfl
@[simp] theorem State.latch_draws (s : State) : s.latch.draws = s.draws := rfl
@[simp] theorem State.latch_lastTime (s : State) : s.latch.lastTime = s.lastTime := rfl

/-! ## haltBudget -/

@[simp] theorem State.haltBudget_x (s : State) : s.haltBudget.x = s.x := rfl
@[simp] theorem State.haltBudget_f (s : State) : s.haltBudget.f = s.f := rfl
@[simp] theorem State.haltBudget_hi (s : State) : s.haltBudget.hi = s.hi := rfl
@[simp] theorem State.haltBudget_lo (s : State) : s.haltBudget.lo = s.lo := rfl
@[simp] theorem State.haltBudget_pc (s : State) : s.haltBudget.pc = s.pc := rfl
@[simp] theorem State.haltBudget_ifId (s : State) : s.haltBudget.ifId = s.ifId := rfl
@[simp] theorem State.haltBudget_idEx (s : State) : s.haltBudget.idEx = s.idEx := rfl
@[simp] theorem State.haltBudget_exMem (s : State) : s.haltBudget.exMem = s.exMem := rfl
@[simp] theorem State.haltBudget_memWb (s : State) : s.haltBudget.memWb = s.memWb := rfl
@[simp] theorem State.haltBudget_stall (s : State) : s.haltBudget.stall = s.stall := rfl
@[simp] theorem State.haltBudget_syscallPending (s : State) : s.haltBudget.syscallPending = s.syscallPending := rfl
@[simp] theorem State.haltBudget_illegalPending (s : State) : s.haltBudget.illegalPending = s.illegalPending := rfl
@[simp] theorem State.haltBudget_bdPending (s : State) : s.haltBudget.bdPending = s.bdPending := rfl
@[simp] theorem State.haltBudget_bdTaken (s : State) : s.haltBudget.bdTaken = s.bdTaken := rfl
@[simp] theorem State.haltBudget_bdTarget (s : State) : s.haltBudget.bdTarget = s.bdTarget := rfl
@[simp] theorem State.haltBudget_booted (s : State) : s.haltBudget.booted = s.booted := rfl
@[simp] theorem State.haltBudget_exit (s : State) : s.haltBudget.exit = true := rfl
@[simp] theorem State.haltBudget_haltReason (s : State) : s.haltBudget.haltReason = some .budget := rfl
@[simp] theorem State.haltBudget_fault (s : State) : s.haltBudget.fault = s.fault := rfl
@[simp] theorem State.haltBudget_nCycles (s : State) : s.haltBudget.nCycles = s.nCycles := rfl
@[simp] theorem State.haltBudget_nFetched (s : State) : s.haltBudget.nFetched = s.nFetched := rfl
@[simp] theorem State.haltBudget_nCondBranch (s : State) : s.haltBudget.nCondBranch = s.nCondBranch := rfl
@[simp] theorem State.haltBudget_nJal (s : State) : s.haltBudget.nJal = s.nJal := rfl
@[simp] theorem State.haltBudget_nJr (s : State) : s.haltBudget.nJr = s.nJr := rfl
@[simp] theorem State.haltBudget_nFp (s : State) : s.haltBudget.nFp = s.nFp := rfl
@[simp] theorem State.haltBudget_nLoad (s : State) : s.haltBudget.nLoad = s.nLoad := rfl
@[simp] theorem State.haltBudget_nStore (s : State) : s.haltBudget.nStore = s.nStore := rfl
@[simp] theorem State.haltBudget_mem (s : State) : s.haltBudget.mem = s.mem := rfl
@[simp] theorem State.haltBudget_fwdMode (s : State) : s.haltBudget.fwdMode = s.fwdMode := rfl
@[simp] theorem State.haltBudget_instrBudget (s : State) : s.haltBudget.instrBudget = s.instrBudget := rfl
@[simp] theorem State.haltBudget_draws (s : State) : s.haltBudget.draws = s.draws := rfl
@[simp] theorem State.haltBudget_lastTime (s : State) : s.haltBudget.lastTime = s.lastTime := rfl

/-! ## writeGpr -/

@[simp] theorem State.writeGpr_x (s : State) (i : RegIdx) (v : Word) : (s.writeGpr i v).x = s.x.set i v := rfl
@[simp] theorem State.writeGpr_f (s : State) (i : RegIdx) (v : Word) : (s.writeGpr i v).f = s.f := rfl
@[simp] theorem State.writeGpr_hi (s : State) (i : RegIdx) (v : Word) : (s.writeGpr i v).hi = s.hi := rfl
@[simp] theorem State.writeGpr_lo (s : State) (i : RegIdx) (v : Word) : (s.writeGpr i v).lo = s.lo := rfl
@[simp] theorem State.writeGpr_pc (s : State) (i : RegIdx) (v : Word) : (s.writeGpr i v).pc = s.pc := rfl
@[simp] theorem State.writeGpr_ifId (s : State) (i : RegIdx) (v : Word) : (s.writeGpr i v).ifId = s.ifId := rfl
@[simp] theorem State.writeGpr_idEx (s : State) (i : RegIdx) (v : Word) : (s.writeGpr i v).idEx = s.idEx := rfl
@[simp] theorem State.writeGpr_exMem (s : State) (i : RegIdx) (v : Word) : (s.writeGpr i v).exMem = s.exMem := rfl
@[simp] theorem State.writeGpr_memWb (s : State) (i : RegIdx) (v : Word) : (s.writeGpr i v).memWb = s.memWb := rfl
@[simp] theorem State.writeGpr_stall (s : State) (i : RegIdx) (v : Word) : (s.writeGpr i v).stall = s.stall := rfl
@[simp] theorem State.writeGpr_syscallPending (s : State) (i : RegIdx) (v : Word) : (s.writeGpr i v).syscallPending = s.syscallPending := rfl
@[simp] theorem State.writeGpr_illegalPending (s : State) (i : RegIdx) (v : Word) : (s.writeGpr i v).illegalPending = s.illegalPending := rfl
@[simp] theorem State.writeGpr_bdPending (s : State) (i : RegIdx) (v : Word) : (s.writeGpr i v).bdPending = s.bdPending := rfl
@[simp] theorem State.writeGpr_bdTaken (s : State) (i : RegIdx) (v : Word) : (s.writeGpr i v).bdTaken = s.bdTaken := rfl
@[simp] theorem State.writeGpr_bdTarget (s : State) (i : RegIdx) (v : Word) : (s.writeGpr i v).bdTarget = s.bdTarget := rfl
@[simp] theorem State.writeGpr_booted (s : State) (i : RegIdx) (v : Word) : (s.writeGpr i v).booted = s.booted := rfl
@[simp] theorem State.writeGpr_exit (s : State) (i : RegIdx) (v : Word) : (s.writeGpr i v).exit = s.exit := rfl
@[simp] theorem State.writeGpr_haltReason (s : State) (i : RegIdx) (v : Word) : (s.writeGpr i v).haltReason = s.haltReason := rfl
@[simp] theorem State.writeGpr_fault (s : State) (i : RegIdx) (v : Word) : (s.writeGpr i v).fault = s.fault := rfl
@[simp] theorem State.writeGpr_nCycles (s : State) (i : RegIdx) (v : Word) : (s.writeGpr i v).nCycles = s.nCycles := rfl
@[simp] theorem State.writeGpr_nFetched (s : State) (i : RegIdx) (v : Word) : (s.writeGpr i v).nFetched = s.nFetched := rfl
@[simp] theorem State.writeGpr_nCondBranch (s : State) (i : RegIdx) (v : Word) : (s.writeGpr i v).nCondBranch = s.nCondBranch := rfl
@[simp] theorem State.writeGpr_nJal (s : State) (i : RegIdx) (v : Word) : (s.writeGpr i v).nJal = s.nJal := rfl
@[simp] theorem State.writeGpr_nJr (s : State) (i : RegIdx) (v : Word) : (s.writeGpr i v).nJr = s.nJr := rfl
@[simp] theorem State.writeGpr_nFp (s : State) (i : RegIdx) (v : Word) : (s.writeGpr i v).nFp = s.nFp := rfl
@[simp] theorem State.writeGpr_nLoad (s : State) (i : RegIdx) (v : Word) : (s.writeGpr i v).nLoad = s.nLoad := rfl
@[simp] theorem State.writeGpr_nStore (s : State) (i : RegIdx) (v : Word) : (s.writeGpr i v).nStore = s.nStore := rfl
@[simp] theorem State.writeGpr_mem (s : State) (i : RegIdx) (v : Word) : (s.writeGpr i v).mem = s.mem := rfl
@[simp] theorem State.writeGpr_fwdMode (s : State) (i : RegIdx) (v : Word) : (s.writeGpr i v).fwdMode = s.fwdMode := rfl
@[simp] theorem State.writeGpr_instrBudget (s : State) (i : RegIdx) (v : Word) : (s.writeGpr i v).instrBudget = s.instrBudget := rfl
@[simp] theorem State.writeGpr_draws (s : State) (i : RegIdx) (v : Word) : (s.writeGpr i v).draws = s.draws := rfl
@[simp] theorem State.writeGpr_lastTime (s : State) (i : RegIdx) (v : Word) : (s.writeGpr i v).lastTime = s.lastTime := rfl

/-! ## forceX0 -/

@[simp] theorem State.forceX0_x (s : State) : s.forceX0.x = s.x.set 0 0 := rfl
@[simp] theorem State.forceX0_f (s : State) : s.forceX0.f = s.f := rfl
@[simp] theorem State.forceX0_hi (s : State) : s.forceX0.hi = s.hi := rfl
@[simp] theorem State.forceX0_lo (s : State) : s.forceX0.lo = s.lo := rfl
@[simp] theorem State.forceX0_pc (s : State) : s.forceX0.pc = s.pc := rfl
@[simp] theorem State.forceX0_ifId (s : State) : s.forceX0.ifId = s.ifId := rfl
@[simp] theorem State.forceX0_idEx (s : State) : s.forceX0.idEx = s.idEx := rfl
@[simp] theorem State.forceX0_exMem (s : State) : s.forceX0.exMem = s.exMem := rfl
@[simp] theorem State.forceX0_memWb (s : State) : s.forceX0.memWb = s.memWb := rfl
@[simp] theorem State.forceX0_stall (s : State) : s.forceX0.stall = s.stall := rfl
@[simp] theorem State.forceX0_syscallPending (s : State) : s.forceX0.syscallPending = s.syscallPending := rfl
@[simp] theorem State.forceX0_illegalPending (s : State) : s.forceX0.illegalPending = s.illegalPending := rfl
@[simp] theorem State.forceX0_bdPending (s : State) : s.forceX0.bdPending = s.bdPending := rfl
@[simp] theorem State.forceX0_bdTaken (s : State) : s.forceX0.bdTaken = s.bdTaken := rfl
@[simp] theorem State.forceX0_bdTarget (s : State) : s.forceX0.bdTarget = s.bdTarget := rfl
@[simp] theorem State.forceX0_booted (s : State) : s.forceX0.booted = s.booted := rfl
@[simp] theorem State.forceX0_exit (s : State) : s.forceX0.exit = s.exit := rfl
@[simp] theorem State.forceX0_haltReason (s : State) : s.forceX0.haltReason = s.haltReason := rfl
@[simp] theorem State.forceX0_fault (s : State) : s.forceX0.fault = s.fault := rfl
@[simp] theorem State.forceX0_nCycles (s : State) : s.forceX0.nCycles = s.nCycles := rfl
@[simp] theorem State.forceX0_nFetched (s : State) : s.forceX0.nFetched = s.nFetched := rfl
@[simp] theorem State.forceX0_nCondBranch (s : State) : s.forceX0.nCondBranch = s.nCondBranch := rfl
@[simp] theorem State.forceX0_nJal (s : State) : s.forceX0.nJal = s.nJal := rfl
@[simp] theorem State.forceX0_nJr (s : State) : s.forceX0.nJr = s.nJr := rfl
@[simp] theorem State.forceX0_nFp (s : State) : s.forceX0.nFp = s.nFp := rfl
@[simp] theorem State.forceX0_nLoad (s : State) : s.forceX0.nLoad = s.nLoad := rfl
@[simp] theorem State.forceX0_nStore (s : State) : s.forceX0.nStore = s.nStore := rfl
@[simp] theorem State.forceX0_mem (s : State) : s.forceX0.mem = s.mem := rfl
@[simp] theorem State.forceX0_fwdMode (s : State) : s.forceX0.fwdMode = s.fwdMode := rfl
@[simp] theorem State.forceX0_instrBudget (s : State) : s.forceX0.instrBudget = s.instrBudget := rfl
@[simp] theorem State.forceX0_draws (s : State) : s.forceX0.draws = s.draws := rfl
@[simp] theorem State.forceX0_lastTime (s : State) : s.forceX0.lastTime = s.lastTime := rfl

/-! ## writeFpr -/

@[simp] theorem State.writeFpr_x (s : State) (i : RegIdx) (v : Word) : (s.writeFpr i v).x = s.x := rfl
@[simp] theorem State.writeFpr_f (s : State) (i : RegIdx) (v : Word) : (s.writeFpr i v).f = s.f.set i v := rfl
@[simp] theorem State.writeFpr_hi (s : State) (i : RegIdx) (v : Word) : (s.writeFpr i v).hi = s.hi := rfl
@[simp] theorem State.writeFpr_lo (s : State) (i : RegIdx) (v : Word) : (s.writeFpr i v).lo = s.lo := rfl
@[simp] theorem State.writeFpr_pc (s : State) (i : RegIdx) (v : Word) : (s.writeFpr i v).pc = s.pc := rfl
@[simp] theorem State.writeFpr_ifId (s : State) (i : RegIdx) (v : Word) : (s.writeFpr i v).ifId = s.ifId := rfl
@[simp] theorem State.writeFpr_idEx (s : State) (i : RegIdx) (v : Word) : (s.writeFpr i v).idEx = s.idEx := rfl
@[simp] theorem State.writeFpr_exMem (s : State) (i : RegIdx) (v : Word) : (s.writeFpr i v).exMem = s.exMem := rfl
@[simp] theorem State.writeFpr_memWb (s : State) (i : RegIdx) (v : Word) : (s.writeFpr i v).memWb = s.memWb := rfl
@[simp] theorem State.writeFpr_stall (s : State) (i : RegIdx) (v : Word) : (s.writeFpr i v).stall = s.stall := rfl
@[simp] theorem State.writeFpr_syscallPending (s : State) (i : RegIdx) (v : Word) : (s.writeFpr i v).syscallPending = s.syscallPending := rfl
@[simp] theorem State.writeFpr_illegalPending (s : State) (i : RegIdx) (v : Word) : (s.writeFpr i v).illegalPending = s.illegalPending := rfl
@[simp] theorem State.writeFpr_bdPending (s : State) (i : RegIdx) (v : Word) : (s.writeFpr i v).bdPending = s.bdPending := rfl
@[simp] theorem State.writeFpr_bdTaken (s : State) (i : RegIdx) (v : Word) : (s.writeFpr i v).bdTaken = s.bdTaken := rfl
@[simp] theorem State.writeFpr_bdTarget (s : State) (i : RegIdx) (v : Word) : (s.writeFpr i v).bdTarget = s.bdTarget := rfl
@[simp] theorem State.writeFpr_booted (s : State) (i : RegIdx) (v : Word) : (s.writeFpr i v).booted = s.booted := rfl
@[simp] theorem State.writeFpr_exit (s : State) (i : RegIdx) (v : Word) : (s.writeFpr i v).exit = s.exit := rfl
@[simp] theorem State.writeFpr_haltReason (s : State) (i : RegIdx) (v : Word) : (s.writeFpr i v).haltReason = s.haltReason := rfl
@[simp] theorem State.writeFpr_fault (s : State) (i : RegIdx) (v : Word) : (s.writeFpr i v).fault = s.fault := rfl
@[simp] theorem State.writeFpr_nCycles (s : State) (i : RegIdx) (v : Word) : (s.writeFpr i v).nCycles = s.nCycles := rfl
@[simp] theorem State.writeFpr_nFetched (s : State) (i : RegIdx) (v : Word) : (s.writeFpr i v).nFetched = s.nFetched := rfl
@[simp] theorem State.writeFpr_nCondBranch (s : State) (i : RegIdx) (v : Word) : (s.writeFpr i v).nCondBranch = s.nCondBranch := rfl
@[simp] theorem State.writeFpr_nJal (s : State) (i : RegIdx) (v : Word) : (s.writeFpr i v).nJal = s.nJal := rfl
@[simp] theorem State.writeFpr_nJr (s : State) (i : RegIdx) (v : Word) : (s.writeFpr i v).nJr = s.nJr := rfl
@[simp] theorem State.writeFpr_nFp (s : State) (i : RegIdx) (v : Word) : (s.writeFpr i v).nFp = s.nFp := rfl
@[simp] theorem State.writeFpr_nLoad (s : State) (i : RegIdx) (v : Word) : (s.writeFpr i v).nLoad = s.nLoad := rfl
@[simp] theorem State.writeFpr_nStore (s : State) (i : RegIdx) (v : Word) : (s.writeFpr i v).nStore = s.nStore := rfl
@[simp] theorem State.writeFpr_mem (s : State) (i : RegIdx) (v : Word) : (s.writeFpr i v).mem = s.mem := rfl
@[simp] theorem State.writeFpr_fwdMode (s : State) (i : RegIdx) (v : Word) : (s.writeFpr i v).fwdMode = s.fwdMode := rfl
@[simp] theorem State.writeFpr_instrBudget (s : State) (i : RegIdx) (v : Word) : (s.writeFpr i v).instrBudget = s.instrBudget := rfl
@[simp] theorem State.writeFpr_draws (s : State) (i : RegIdx) (v : Word) : (s.writeFpr i v).draws = s.draws := rfl
@[simp] theorem State.writeFpr_lastTime (s : State) (i : RegIdx) (v : Word) : (s.writeFpr i v).lastTime = s.lastTime := rfl

/-! ## writeFprPair -/

@[simp] theorem State.writeFprPair_x (s : State) (i : RegIdx) (h l : Word) : (s.writeFprPair i h l).x = s.x := rfl
@[simp] theorem State.writeFprPair_f (s : State) (i : RegIdx) (h l : Word) : (s.writeFprPair i h l).f = (s.f.set i l).set (i + 1 : RegIdx) h := rfl
@[simp] theorem State.writeFprPair_hi (s : State) (i : RegIdx) (h l : Word) : (s.writeFprPair i h l).hi = s.hi := rfl
@[simp] theorem State.writeFprPair_lo (s : State) (i : RegIdx) (h l : Word) : (s.writeFprPair i h l).lo = s.lo := rfl
@[simp] theorem State.writeFprPair_pc (s : State) (i : RegIdx) (h l : Word) : (s.writeFprPair i h l).pc = s.pc := rfl
@[simp] theorem State.writeFprPair_ifId (s : State) (i : RegIdx) (h l : Word) : (s.writeFprPair i h l).ifId = s.ifId := rfl
@[simp] theorem State.writeFprPair_idEx (s : State) (i : RegIdx) (h l : Word) : (s.writeFprPair i h l).idEx = s.idEx := rfl
@[simp] theorem State.writeFprPair_exMem (s : State) (i : RegIdx) (h l : Word) : (s.writeFprPair i h l).exMem = s.exMem := rfl
@[simp] theorem State.writeFprPair_memWb (s : State) (i : RegIdx) (h l : Word) : (s.writeFprPair i h l).memWb = s.memWb := rfl
@[simp] theorem State.writeFprPair_stall (s : State) (i : RegIdx) (h l : Word) : (s.writeFprPair i h l).stall = s.stall := rfl
@[simp] theorem State.writeFprPair_syscallPending (s : State) (i : RegIdx) (h l : Word) : (s.writeFprPair i h l).syscallPending = s.syscallPending := rfl
@[simp] theorem State.writeFprPair_illegalPending (s : State) (i : RegIdx) (h l : Word) : (s.writeFprPair i h l).illegalPending = s.illegalPending := rfl
@[simp] theorem State.writeFprPair_bdPending (s : State) (i : RegIdx) (h l : Word) : (s.writeFprPair i h l).bdPending = s.bdPending := rfl
@[simp] theorem State.writeFprPair_bdTaken (s : State) (i : RegIdx) (h l : Word) : (s.writeFprPair i h l).bdTaken = s.bdTaken := rfl
@[simp] theorem State.writeFprPair_bdTarget (s : State) (i : RegIdx) (h l : Word) : (s.writeFprPair i h l).bdTarget = s.bdTarget := rfl
@[simp] theorem State.writeFprPair_booted (s : State) (i : RegIdx) (h l : Word) : (s.writeFprPair i h l).booted = s.booted := rfl
@[simp] theorem State.writeFprPair_exit (s : State) (i : RegIdx) (h l : Word) : (s.writeFprPair i h l).exit = s.exit := rfl
@[simp] theorem State.writeFprPair_haltReason (s : State) (i : RegIdx) (h l : Word) : (s.writeFprPair i h l).haltReason = s.haltReason := rfl
@[simp] theorem State.writeFprPair_fault (s : State) (i : RegIdx) (h l : Word) : (s.writeFprPair i h l).fault = s.fault := rfl
@[simp] theorem State.writeFprPair_nCycles (s : State) (i : RegIdx) (h l : Word) : (s.writeFprPair i h l).nCycles = s.nCycles := rfl
@[simp] theorem State.writeFprPair_nFetched (s : State) (i : RegIdx) (h l : Word) : (s.writeFprPair i h l).nFetched = s.nFetched := rfl
@[simp] theorem State.writeFprPair_nCondBranch (s : State) (i : RegIdx) (h l : Word) : (s.writeFprPair i h l).nCondBranch = s.nCondBranch := rfl
@[simp] theorem State.writeFprPair_nJal (s : State) (i : RegIdx) (h l : Word) : (s.writeFprPair i h l).nJal = s.nJal := rfl
@[simp] theorem State.writeFprPair_nJr (s : State) (i : RegIdx) (h l : Word) : (s.writeFprPair i h l).nJr = s.nJr := rfl
@[simp] theorem State.writeFprPair_nFp (s : State) (i : RegIdx) (h l : Word) : (s.writeFprPair i h l).nFp = s.nFp := rfl
@[simp] theorem State.writeFprPair_nLoad (s : State) (i : RegIdx) (h l : Word) : (s.writeFprPair i h l).nLoad = s.nLoad := rfl
@[simp] theorem State.writeFprPair_nStore (s : State) (i : RegIdx) (h l : Word) : (s.writeFprPair i h l).nStore = s.nStore := rfl
@[simp] theorem State.writeFprPair_mem (s : State) (i : RegIdx) (h l : Word) : (s.writeFprPair i h l).mem = s.mem := rfl
@[simp] theorem State.writeFprPair_fwdMode (s : State) (i : RegIdx) (h l : Word) : (s.writeFprPair i h l).fwdMode = s.fwdMode := rfl
@[simp] theorem State.writeFprPair_instrBudget (s : State) (i : RegIdx) (h l : Word) : (s.writeFprPair i h l).instrBudget = s.instrBudget := rfl
@[simp] theorem State.writeFprPair_draws (s : State) (i : RegIdx) (h l : Word) : (s.writeFprPair i h l).draws = s.draws := rfl
@[simp] theorem State.writeFprPair_lastTime (s : State) (i : RegIdx) (h l : Word) : (s.writeFprPair i h l).lastTime = s.lastTime := rfl

/-! ## haltIllegal -/

@[simp] theorem State.haltIllegal_x (s : State) : s.haltIllegal.x = s.x := rfl
@[simp] theorem State.haltIllegal_f (s : State) : s.haltIllegal.f = s.f := rfl
@[simp] theorem State.haltIllegal_hi (s : State) : s.haltIllegal.hi = s.hi := rfl
@[simp] theorem State.haltIllegal_lo (s : State) : s.haltIllegal.lo = s.lo := rfl
@[simp] theorem State.haltIllegal_pc (s : State) : s.haltIllegal.pc = s.pc := rfl
@[simp] theorem State.haltIllegal_ifId (s : State) : s.haltIllegal.ifId = s.ifId := rfl
@[simp] theorem State.haltIllegal_idEx (s : State) : s.haltIllegal.idEx = s.idEx := rfl
@[simp] theorem State.haltIllegal_exMem (s : State) : s.haltIllegal.exMem = s.exMem := rfl
@[simp] theorem State.haltIllegal_memWb (s : State) : s.haltIllegal.memWb = s.memWb := rfl
@[simp] theorem State.haltIllegal_stall (s : State) : s.haltIllegal.stall = s.stall := rfl
@[simp] theorem State.haltIllegal_syscallPending (s : State) : s.haltIllegal.syscallPending = s.syscallPending := rfl
@[simp] theorem State.haltIllegal_illegalPending (s : State) : s.haltIllegal.illegalPending = s.illegalPending := rfl
@[simp] theorem State.haltIllegal_bdPending (s : State) : s.haltIllegal.bdPending = s.bdPending := rfl
@[simp] theorem State.haltIllegal_bdTaken (s : State) : s.haltIllegal.bdTaken = s.bdTaken := rfl
@[simp] theorem State.haltIllegal_bdTarget (s : State) : s.haltIllegal.bdTarget = s.bdTarget := rfl
@[simp] theorem State.haltIllegal_booted (s : State) : s.haltIllegal.booted = s.booted := rfl
@[simp] theorem State.haltIllegal_exit (s : State) : s.haltIllegal.exit = true := rfl
@[simp] theorem State.haltIllegal_haltReason (s : State) : s.haltIllegal.haltReason = some .illegalOpcode := rfl
@[simp] theorem State.haltIllegal_fault (s : State) : s.haltIllegal.fault = s.fault := rfl
@[simp] theorem State.haltIllegal_nCycles (s : State) : s.haltIllegal.nCycles = s.nCycles := rfl
@[simp] theorem State.haltIllegal_nFetched (s : State) : s.haltIllegal.nFetched = s.nFetched := rfl
@[simp] theorem State.haltIllegal_nCondBranch (s : State) : s.haltIllegal.nCondBranch = s.nCondBranch := rfl
@[simp] theorem State.haltIllegal_nJal (s : State) : s.haltIllegal.nJal = s.nJal := rfl
@[simp] theorem State.haltIllegal_nJr (s : State) : s.haltIllegal.nJr = s.nJr := rfl
@[simp] theorem State.haltIllegal_nFp (s : State) : s.haltIllegal.nFp = s.nFp := rfl
@[simp] theorem State.haltIllegal_nLoad (s : State) : s.haltIllegal.nLoad = s.nLoad := rfl
@[simp] theorem State.haltIllegal_nStore (s : State) : s.haltIllegal.nStore = s.nStore := rfl
@[simp] theorem State.haltIllegal_mem (s : State) : s.haltIllegal.mem = s.mem := rfl
@[simp] theorem State.haltIllegal_fwdMode (s : State) : s.haltIllegal.fwdMode = s.fwdMode := rfl
@[simp] theorem State.haltIllegal_instrBudget (s : State) : s.haltIllegal.instrBudget = s.instrBudget := rfl
@[simp] theorem State.haltIllegal_draws (s : State) : s.haltIllegal.draws = s.draws := rfl
@[simp] theorem State.haltIllegal_lastTime (s : State) : s.haltIllegal.lastTime = s.lastTime := rfl

/-! ## sysWriteGpr -/

@[simp] theorem State.sysWriteGpr_x (s : State) (i : RegIdx) (v : Word) :
    (s.sysWriteGpr i v).x = if i = 0 then s.x else s.x.set i v := by
  unfold State.sysWriteGpr
  split <;> rfl
@[simp] theorem State.sysWriteGpr_f (s : State) (i : RegIdx) (v : Word) : (s.sysWriteGpr i v).f = s.f := by
  unfold State.sysWriteGpr
  split <;> rfl
@[simp] theorem State.sysWriteGpr_hi (s : State) (i : RegIdx) (v : Word) : (s.sysWriteGpr i v).hi = s.hi := by
  unfold State.sysWriteGpr
  split <;> rfl
@[simp] theorem State.sysWriteGpr_lo (s : State) (i : RegIdx) (v : Word) : (s.sysWriteGpr i v).lo = s.lo := by
  unfold State.sysWriteGpr
  split <;> rfl
@[simp] theorem State.sysWriteGpr_pc (s : State) (i : RegIdx) (v : Word) : (s.sysWriteGpr i v).pc = s.pc := by
  unfold State.sysWriteGpr
  split <;> rfl
@[simp] theorem State.sysWriteGpr_ifId (s : State) (i : RegIdx) (v : Word) : (s.sysWriteGpr i v).ifId = s.ifId := by
  unfold State.sysWriteGpr
  split <;> rfl
@[simp] theorem State.sysWriteGpr_idEx (s : State) (i : RegIdx) (v : Word) : (s.sysWriteGpr i v).idEx = s.idEx := by
  unfold State.sysWriteGpr
  split <;> rfl
@[simp] theorem State.sysWriteGpr_exMem (s : State) (i : RegIdx) (v : Word) : (s.sysWriteGpr i v).exMem = s.exMem := by
  unfold State.sysWriteGpr
  split <;> rfl
@[simp] theorem State.sysWriteGpr_memWb (s : State) (i : RegIdx) (v : Word) : (s.sysWriteGpr i v).memWb = s.memWb := by
  unfold State.sysWriteGpr
  split <;> rfl
@[simp] theorem State.sysWriteGpr_stall (s : State) (i : RegIdx) (v : Word) : (s.sysWriteGpr i v).stall = s.stall := by
  unfold State.sysWriteGpr
  split <;> rfl
@[simp] theorem State.sysWriteGpr_syscallPending (s : State) (i : RegIdx) (v : Word) : (s.sysWriteGpr i v).syscallPending = s.syscallPending := by
  unfold State.sysWriteGpr
  split <;> rfl
@[simp] theorem State.sysWriteGpr_illegalPending (s : State) (i : RegIdx) (v : Word) : (s.sysWriteGpr i v).illegalPending = s.illegalPending := by
  unfold State.sysWriteGpr
  split <;> rfl
@[simp] theorem State.sysWriteGpr_bdPending (s : State) (i : RegIdx) (v : Word) : (s.sysWriteGpr i v).bdPending = s.bdPending := by
  unfold State.sysWriteGpr
  split <;> rfl
@[simp] theorem State.sysWriteGpr_bdTaken (s : State) (i : RegIdx) (v : Word) : (s.sysWriteGpr i v).bdTaken = s.bdTaken := by
  unfold State.sysWriteGpr
  split <;> rfl
@[simp] theorem State.sysWriteGpr_bdTarget (s : State) (i : RegIdx) (v : Word) : (s.sysWriteGpr i v).bdTarget = s.bdTarget := by
  unfold State.sysWriteGpr
  split <;> rfl
@[simp] theorem State.sysWriteGpr_booted (s : State) (i : RegIdx) (v : Word) : (s.sysWriteGpr i v).booted = s.booted := by
  unfold State.sysWriteGpr
  split <;> rfl
@[simp] theorem State.sysWriteGpr_exit (s : State) (i : RegIdx) (v : Word) : (s.sysWriteGpr i v).exit = s.exit := by
  unfold State.sysWriteGpr
  split <;> rfl
@[simp] theorem State.sysWriteGpr_haltReason (s : State) (i : RegIdx) (v : Word) : (s.sysWriteGpr i v).haltReason = s.haltReason := by
  unfold State.sysWriteGpr
  split <;> rfl
@[simp] theorem State.sysWriteGpr_fault (s : State) (i : RegIdx) (v : Word) : (s.sysWriteGpr i v).fault = s.fault := by
  unfold State.sysWriteGpr
  split <;> rfl
@[simp] theorem State.sysWriteGpr_nCycles (s : State) (i : RegIdx) (v : Word) : (s.sysWriteGpr i v).nCycles = s.nCycles := by
  unfold State.sysWriteGpr
  split <;> rfl
@[simp] theorem State.sysWriteGpr_nFetched (s : State) (i : RegIdx) (v : Word) : (s.sysWriteGpr i v).nFetched = s.nFetched := by
  unfold State.sysWriteGpr
  split <;> rfl
@[simp] theorem State.sysWriteGpr_nCondBranch (s : State) (i : RegIdx) (v : Word) : (s.sysWriteGpr i v).nCondBranch = s.nCondBranch := by
  unfold State.sysWriteGpr
  split <;> rfl
@[simp] theorem State.sysWriteGpr_nJal (s : State) (i : RegIdx) (v : Word) : (s.sysWriteGpr i v).nJal = s.nJal := by
  unfold State.sysWriteGpr
  split <;> rfl
@[simp] theorem State.sysWriteGpr_nJr (s : State) (i : RegIdx) (v : Word) : (s.sysWriteGpr i v).nJr = s.nJr := by
  unfold State.sysWriteGpr
  split <;> rfl
@[simp] theorem State.sysWriteGpr_nFp (s : State) (i : RegIdx) (v : Word) : (s.sysWriteGpr i v).nFp = s.nFp := by
  unfold State.sysWriteGpr
  split <;> rfl
@[simp] theorem State.sysWriteGpr_nLoad (s : State) (i : RegIdx) (v : Word) : (s.sysWriteGpr i v).nLoad = s.nLoad := by
  unfold State.sysWriteGpr
  split <;> rfl
@[simp] theorem State.sysWriteGpr_nStore (s : State) (i : RegIdx) (v : Word) : (s.sysWriteGpr i v).nStore = s.nStore := by
  unfold State.sysWriteGpr
  split <;> rfl
@[simp] theorem State.sysWriteGpr_mem (s : State) (i : RegIdx) (v : Word) : (s.sysWriteGpr i v).mem = s.mem := by
  unfold State.sysWriteGpr
  split <;> rfl
@[simp] theorem State.sysWriteGpr_fwdMode (s : State) (i : RegIdx) (v : Word) : (s.sysWriteGpr i v).fwdMode = s.fwdMode := by
  unfold State.sysWriteGpr
  split <;> rfl
@[simp] theorem State.sysWriteGpr_instrBudget (s : State) (i : RegIdx) (v : Word) : (s.sysWriteGpr i v).instrBudget = s.instrBudget := by
  unfold State.sysWriteGpr
  split <;> rfl
@[simp] theorem State.sysWriteGpr_draws (s : State) (i : RegIdx) (v : Word) : (s.sysWriteGpr i v).draws = s.draws := by
  unfold State.sysWriteGpr
  split <;> rfl
@[simp] theorem State.sysWriteGpr_lastTime (s : State) (i : RegIdx) (v : Word) : (s.sysWriteGpr i v).lastTime = s.lastTime := by
  unfold State.sysWriteGpr
  split <;> rfl

/-! ## countLoad -/

@[simp] theorem State.countLoad_x (s : State) : s.countLoad.x = s.x := rfl
@[simp] theorem State.countLoad_f (s : State) : s.countLoad.f = s.f := rfl
@[simp] theorem State.countLoad_hi (s : State) : s.countLoad.hi = s.hi := rfl
@[simp] theorem State.countLoad_lo (s : State) : s.countLoad.lo = s.lo := rfl
@[simp] theorem State.countLoad_pc (s : State) : s.countLoad.pc = s.pc := rfl
@[simp] theorem State.countLoad_ifId (s : State) : s.countLoad.ifId = s.ifId := rfl
@[simp] theorem State.countLoad_idEx (s : State) : s.countLoad.idEx = s.idEx := rfl
@[simp] theorem State.countLoad_exMem (s : State) : s.countLoad.exMem = s.exMem := rfl
@[simp] theorem State.countLoad_memWb (s : State) : s.countLoad.memWb = s.memWb := rfl
@[simp] theorem State.countLoad_stall (s : State) : s.countLoad.stall = s.stall := rfl
@[simp] theorem State.countLoad_syscallPending (s : State) : s.countLoad.syscallPending = s.syscallPending := rfl
@[simp] theorem State.countLoad_illegalPending (s : State) : s.countLoad.illegalPending = s.illegalPending := rfl
@[simp] theorem State.countLoad_bdPending (s : State) : s.countLoad.bdPending = s.bdPending := rfl
@[simp] theorem State.countLoad_bdTaken (s : State) : s.countLoad.bdTaken = s.bdTaken := rfl
@[simp] theorem State.countLoad_bdTarget (s : State) : s.countLoad.bdTarget = s.bdTarget := rfl
@[simp] theorem State.countLoad_booted (s : State) : s.countLoad.booted = s.booted := rfl
@[simp] theorem State.countLoad_exit (s : State) : s.countLoad.exit = s.exit := rfl
@[simp] theorem State.countLoad_haltReason (s : State) : s.countLoad.haltReason = s.haltReason := rfl
@[simp] theorem State.countLoad_fault (s : State) : s.countLoad.fault = s.fault := rfl
@[simp] theorem State.countLoad_nCycles (s : State) : s.countLoad.nCycles = s.nCycles := rfl
@[simp] theorem State.countLoad_nFetched (s : State) : s.countLoad.nFetched = s.nFetched := rfl
@[simp] theorem State.countLoad_nCondBranch (s : State) : s.countLoad.nCondBranch = s.nCondBranch := rfl
@[simp] theorem State.countLoad_nJal (s : State) : s.countLoad.nJal = s.nJal := rfl
@[simp] theorem State.countLoad_nJr (s : State) : s.countLoad.nJr = s.nJr := rfl
@[simp] theorem State.countLoad_nFp (s : State) : s.countLoad.nFp = s.nFp := rfl
@[simp] theorem State.countLoad_nLoad (s : State) : s.countLoad.nLoad = s.nLoad + 1 := rfl
@[simp] theorem State.countLoad_nStore (s : State) : s.countLoad.nStore = s.nStore := rfl
@[simp] theorem State.countLoad_mem (s : State) : s.countLoad.mem = s.mem := rfl
@[simp] theorem State.countLoad_fwdMode (s : State) : s.countLoad.fwdMode = s.fwdMode := rfl
@[simp] theorem State.countLoad_instrBudget (s : State) : s.countLoad.instrBudget = s.instrBudget := rfl
@[simp] theorem State.countLoad_draws (s : State) : s.countLoad.draws = s.draws := rfl
@[simp] theorem State.countLoad_lastTime (s : State) : s.countLoad.lastTime = s.lastTime := rfl

/-! ## countStore -/

@[simp] theorem State.countStore_x (s : State) : s.countStore.x = s.x := rfl
@[simp] theorem State.countStore_f (s : State) : s.countStore.f = s.f := rfl
@[simp] theorem State.countStore_hi (s : State) : s.countStore.hi = s.hi := rfl
@[simp] theorem State.countStore_lo (s : State) : s.countStore.lo = s.lo := rfl
@[simp] theorem State.countStore_pc (s : State) : s.countStore.pc = s.pc := rfl
@[simp] theorem State.countStore_ifId (s : State) : s.countStore.ifId = s.ifId := rfl
@[simp] theorem State.countStore_idEx (s : State) : s.countStore.idEx = s.idEx := rfl
@[simp] theorem State.countStore_exMem (s : State) : s.countStore.exMem = s.exMem := rfl
@[simp] theorem State.countStore_memWb (s : State) : s.countStore.memWb = s.memWb := rfl
@[simp] theorem State.countStore_stall (s : State) : s.countStore.stall = s.stall := rfl
@[simp] theorem State.countStore_syscallPending (s : State) : s.countStore.syscallPending = s.syscallPending := rfl
@[simp] theorem State.countStore_illegalPending (s : State) : s.countStore.illegalPending = s.illegalPending := rfl
@[simp] theorem State.countStore_bdPending (s : State) : s.countStore.bdPending = s.bdPending := rfl
@[simp] theorem State.countStore_bdTaken (s : State) : s.countStore.bdTaken = s.bdTaken := rfl
@[simp] theorem State.countStore_bdTarget (s : State) : s.countStore.bdTarget = s.bdTarget := rfl
@[simp] theorem State.countStore_booted (s : State) : s.countStore.booted = s.booted := rfl
@[simp] theorem State.countStore_exit (s : State) : s.countStore.exit = s.exit := rfl
@[simp] theorem State.countStore_haltReason (s : State) : s.countStore.haltReason = s.haltReason := rfl
@[simp] theorem State.countStore_fault (s : State) : s.countStore.fault = s.fault := rfl
@[simp] theorem State.countStore_nCycles (s : State) : s.countStore.nCycles = s.nCycles := rfl
@[simp] theorem State.countStore_nFetched (s : State) : s.countStore.nFetched = s.nFetched := rfl
@[simp] theorem State.countStore_nCondBranch (s : State) : s.countStore.nCondBranch = s.nCondBranch := rfl
@[simp] theorem State.countStore_nJal (s : State) : s.countStore.nJal = s.nJal := rfl
@[simp] theorem State.countStore_nJr (s : State) : s.countStore.nJr = s.nJr := rfl
@[simp] theorem State.countStore_nFp (s : State) : s.countStore.nFp = s.nFp := rfl
@[simp] theorem State.countStore_nLoad (s : State) : s.countStore.nLoad = s.nLoad := rfl
@[simp] theorem State.countStore_nStore (s : State) : s.countStore.nStore = s.nStore + 1 := rfl
@[simp] theorem State.countStore_mem (s : State) : s.countStore.mem = s.mem := rfl
@[simp] theorem State.countStore_fwdMode (s : State) : s.countStore.fwdMode = s.fwdMode := rfl
@[simp] theorem State.countStore_instrBudget (s : State) : s.countStore.instrBudget = s.instrBudget := rfl
@[simp] theorem State.countStore_draws (s : State) : s.countStore.draws = s.draws := rfl
@[simp] theorem State.countStore_lastTime (s : State) : s.countStore.lastTime = s.lastTime := rfl

/-! ## tookTime -/

@[simp] theorem State.tookTime_x (s : State) (t : DWord) : (s.tookTime t).x = s.x := rfl
@[simp] theorem State.tookTime_f (s : State) (t : DWord) : (s.tookTime t).f = s.f := rfl
@[simp] theorem State.tookTime_hi (s : State) (t : DWord) : (s.tookTime t).hi = s.hi := rfl
@[simp] theorem State.tookTime_lo (s : State) (t : DWord) : (s.tookTime t).lo = s.lo := rfl
@[simp] theorem State.tookTime_pc (s : State) (t : DWord) : (s.tookTime t).pc = s.pc := rfl
@[simp] theorem State.tookTime_ifId (s : State) (t : DWord) : (s.tookTime t).ifId = s.ifId := rfl
@[simp] theorem State.tookTime_idEx (s : State) (t : DWord) : (s.tookTime t).idEx = s.idEx := rfl
@[simp] theorem State.tookTime_exMem (s : State) (t : DWord) : (s.tookTime t).exMem = s.exMem := rfl
@[simp] theorem State.tookTime_memWb (s : State) (t : DWord) : (s.tookTime t).memWb = s.memWb := rfl
@[simp] theorem State.tookTime_stall (s : State) (t : DWord) : (s.tookTime t).stall = s.stall := rfl
@[simp] theorem State.tookTime_syscallPending (s : State) (t : DWord) : (s.tookTime t).syscallPending = s.syscallPending := rfl
@[simp] theorem State.tookTime_illegalPending (s : State) (t : DWord) : (s.tookTime t).illegalPending = s.illegalPending := rfl
@[simp] theorem State.tookTime_bdPending (s : State) (t : DWord) : (s.tookTime t).bdPending = s.bdPending := rfl
@[simp] theorem State.tookTime_bdTaken (s : State) (t : DWord) : (s.tookTime t).bdTaken = s.bdTaken := rfl
@[simp] theorem State.tookTime_bdTarget (s : State) (t : DWord) : (s.tookTime t).bdTarget = s.bdTarget := rfl
@[simp] theorem State.tookTime_booted (s : State) (t : DWord) : (s.tookTime t).booted = s.booted := rfl
@[simp] theorem State.tookTime_exit (s : State) (t : DWord) : (s.tookTime t).exit = s.exit := rfl
@[simp] theorem State.tookTime_haltReason (s : State) (t : DWord) : (s.tookTime t).haltReason = s.haltReason := rfl
@[simp] theorem State.tookTime_fault (s : State) (t : DWord) : (s.tookTime t).fault = s.fault := rfl
@[simp] theorem State.tookTime_nCycles (s : State) (t : DWord) : (s.tookTime t).nCycles = s.nCycles := rfl
@[simp] theorem State.tookTime_nFetched (s : State) (t : DWord) : (s.tookTime t).nFetched = s.nFetched := rfl
@[simp] theorem State.tookTime_nCondBranch (s : State) (t : DWord) : (s.tookTime t).nCondBranch = s.nCondBranch := rfl
@[simp] theorem State.tookTime_nJal (s : State) (t : DWord) : (s.tookTime t).nJal = s.nJal := rfl
@[simp] theorem State.tookTime_nJr (s : State) (t : DWord) : (s.tookTime t).nJr = s.nJr := rfl
@[simp] theorem State.tookTime_nFp (s : State) (t : DWord) : (s.tookTime t).nFp = s.nFp := rfl
@[simp] theorem State.tookTime_nLoad (s : State) (t : DWord) : (s.tookTime t).nLoad = s.nLoad := rfl
@[simp] theorem State.tookTime_nStore (s : State) (t : DWord) : (s.tookTime t).nStore = s.nStore := rfl
@[simp] theorem State.tookTime_mem (s : State) (t : DWord) : (s.tookTime t).mem = s.mem := rfl
@[simp] theorem State.tookTime_fwdMode (s : State) (t : DWord) : (s.tookTime t).fwdMode = s.fwdMode := rfl
@[simp] theorem State.tookTime_instrBudget (s : State) (t : DWord) : (s.tookTime t).instrBudget = s.instrBudget := rfl
@[simp] theorem State.tookTime_draws (s : State) (t : DWord) : (s.tookTime t).draws = s.draws + 1 := rfl
@[simp] theorem State.tookTime_lastTime (s : State) (t : DWord) : (s.tookTime t).lastTime = t := rfl

/-! ## tookChoice -/

@[simp] theorem State.tookChoice_x (s : State) : s.tookChoice.x = s.x := rfl
@[simp] theorem State.tookChoice_f (s : State) : s.tookChoice.f = s.f := rfl
@[simp] theorem State.tookChoice_hi (s : State) : s.tookChoice.hi = s.hi := rfl
@[simp] theorem State.tookChoice_lo (s : State) : s.tookChoice.lo = s.lo := rfl
@[simp] theorem State.tookChoice_pc (s : State) : s.tookChoice.pc = s.pc := rfl
@[simp] theorem State.tookChoice_ifId (s : State) : s.tookChoice.ifId = s.ifId := rfl
@[simp] theorem State.tookChoice_idEx (s : State) : s.tookChoice.idEx = s.idEx := rfl
@[simp] theorem State.tookChoice_exMem (s : State) : s.tookChoice.exMem = s.exMem := rfl
@[simp] theorem State.tookChoice_memWb (s : State) : s.tookChoice.memWb = s.memWb := rfl
@[simp] theorem State.tookChoice_stall (s : State) : s.tookChoice.stall = s.stall := rfl
@[simp] theorem State.tookChoice_syscallPending (s : State) : s.tookChoice.syscallPending = s.syscallPending := rfl
@[simp] theorem State.tookChoice_illegalPending (s : State) : s.tookChoice.illegalPending = s.illegalPending := rfl
@[simp] theorem State.tookChoice_bdPending (s : State) : s.tookChoice.bdPending = s.bdPending := rfl
@[simp] theorem State.tookChoice_bdTaken (s : State) : s.tookChoice.bdTaken = s.bdTaken := rfl
@[simp] theorem State.tookChoice_bdTarget (s : State) : s.tookChoice.bdTarget = s.bdTarget := rfl
@[simp] theorem State.tookChoice_booted (s : State) : s.tookChoice.booted = s.booted := rfl
@[simp] theorem State.tookChoice_exit (s : State) : s.tookChoice.exit = s.exit := rfl
@[simp] theorem State.tookChoice_haltReason (s : State) : s.tookChoice.haltReason = s.haltReason := rfl
@[simp] theorem State.tookChoice_fault (s : State) : s.tookChoice.fault = s.fault := rfl
@[simp] theorem State.tookChoice_nCycles (s : State) : s.tookChoice.nCycles = s.nCycles := rfl
@[simp] theorem State.tookChoice_nFetched (s : State) : s.tookChoice.nFetched = s.nFetched := rfl
@[simp] theorem State.tookChoice_nCondBranch (s : State) : s.tookChoice.nCondBranch = s.nCondBranch := rfl
@[simp] theorem State.tookChoice_nJal (s : State) : s.tookChoice.nJal = s.nJal := rfl
@[simp] theorem State.tookChoice_nJr (s : State) : s.tookChoice.nJr = s.nJr := rfl
@[simp] theorem State.tookChoice_nFp (s : State) : s.tookChoice.nFp = s.nFp := rfl
@[simp] theorem State.tookChoice_nLoad (s : State) : s.tookChoice.nLoad = s.nLoad := rfl
@[simp] theorem State.tookChoice_nStore (s : State) : s.tookChoice.nStore = s.nStore := rfl
@[simp] theorem State.tookChoice_mem (s : State) : s.tookChoice.mem = s.mem := rfl
@[simp] theorem State.tookChoice_fwdMode (s : State) : s.tookChoice.fwdMode = s.fwdMode := rfl
@[simp] theorem State.tookChoice_instrBudget (s : State) : s.tookChoice.instrBudget = s.instrBudget := rfl
@[simp] theorem State.tookChoice_draws (s : State) : s.tookChoice.draws = s.draws + 1 := rfl
@[simp] theorem State.tookChoice_lastTime (s : State) : s.tookChoice.lastTime = s.lastTime := rfl

/-! ## afterSyscall -/

@[simp] theorem State.afterSyscall_x (s : State) (q : PipeReg) (e : Bool) : (s.afterSyscall q e).x = s.x := rfl
@[simp] theorem State.afterSyscall_f (s : State) (q : PipeReg) (e : Bool) : (s.afterSyscall q e).f = s.f := rfl
@[simp] theorem State.afterSyscall_hi (s : State) (q : PipeReg) (e : Bool) : (s.afterSyscall q e).hi = s.hi := rfl
@[simp] theorem State.afterSyscall_lo (s : State) (q : PipeReg) (e : Bool) : (s.afterSyscall q e).lo = s.lo := rfl
@[simp] theorem State.afterSyscall_pc (s : State) (q : PipeReg) (e : Bool) : (s.afterSyscall q e).pc = q.pc + 4 := rfl
@[simp] theorem State.afterSyscall_ifId (s : State) (q : PipeReg) (e : Bool) : (s.afterSyscall q e).ifId = s.ifId := rfl
@[simp] theorem State.afterSyscall_idEx (s : State) (q : PipeReg) (e : Bool) : (s.afterSyscall q e).idEx = s.idEx := rfl
@[simp] theorem State.afterSyscall_exMem (s : State) (q : PipeReg) (e : Bool) : (s.afterSyscall q e).exMem = s.exMem := rfl
@[simp] theorem State.afterSyscall_memWb (s : State) (q : PipeReg) (e : Bool) : (s.afterSyscall q e).memWb = s.memWb := rfl
@[simp] theorem State.afterSyscall_stall (s : State) (q : PipeReg) (e : Bool) : (s.afterSyscall q e).stall = s.stall := rfl
@[simp] theorem State.afterSyscall_syscallPending (s : State) (q : PipeReg) (e : Bool) : (s.afterSyscall q e).syscallPending = false := rfl
@[simp] theorem State.afterSyscall_illegalPending (s : State) (q : PipeReg) (e : Bool) : (s.afterSyscall q e).illegalPending = s.illegalPending := rfl
@[simp] theorem State.afterSyscall_bdPending (s : State) (q : PipeReg) (e : Bool) : (s.afterSyscall q e).bdPending = s.bdPending := rfl
@[simp] theorem State.afterSyscall_bdTaken (s : State) (q : PipeReg) (e : Bool) : (s.afterSyscall q e).bdTaken = s.bdTaken := rfl
@[simp] theorem State.afterSyscall_bdTarget (s : State) (q : PipeReg) (e : Bool) : (s.afterSyscall q e).bdTarget = s.bdTarget := rfl
@[simp] theorem State.afterSyscall_booted (s : State) (q : PipeReg) (e : Bool) : (s.afterSyscall q e).booted = s.booted := rfl
@[simp] theorem State.afterSyscall_exit (s : State) (q : PipeReg) (e : Bool) : (s.afterSyscall q e).exit = (e || s.exit) := rfl
@[simp] theorem State.afterSyscall_haltReason (s : State) (q : PipeReg) (e : Bool) : (s.afterSyscall q e).haltReason = if e then some .syscallExit else s.haltReason := rfl
@[simp] theorem State.afterSyscall_fault (s : State) (q : PipeReg) (e : Bool) : (s.afterSyscall q e).fault = s.fault := rfl
@[simp] theorem State.afterSyscall_nCycles (s : State) (q : PipeReg) (e : Bool) : (s.afterSyscall q e).nCycles = s.nCycles := rfl
@[simp] theorem State.afterSyscall_nFetched (s : State) (q : PipeReg) (e : Bool) : (s.afterSyscall q e).nFetched = s.nFetched := rfl
@[simp] theorem State.afterSyscall_nCondBranch (s : State) (q : PipeReg) (e : Bool) : (s.afterSyscall q e).nCondBranch = s.nCondBranch := rfl
@[simp] theorem State.afterSyscall_nJal (s : State) (q : PipeReg) (e : Bool) : (s.afterSyscall q e).nJal = s.nJal := rfl
@[simp] theorem State.afterSyscall_nJr (s : State) (q : PipeReg) (e : Bool) : (s.afterSyscall q e).nJr = s.nJr := rfl
@[simp] theorem State.afterSyscall_nFp (s : State) (q : PipeReg) (e : Bool) : (s.afterSyscall q e).nFp = s.nFp := rfl
@[simp] theorem State.afterSyscall_nLoad (s : State) (q : PipeReg) (e : Bool) : (s.afterSyscall q e).nLoad = s.nLoad := rfl
@[simp] theorem State.afterSyscall_nStore (s : State) (q : PipeReg) (e : Bool) : (s.afterSyscall q e).nStore = s.nStore := rfl
@[simp] theorem State.afterSyscall_mem (s : State) (q : PipeReg) (e : Bool) : (s.afterSyscall q e).mem = s.mem := rfl
@[simp] theorem State.afterSyscall_fwdMode (s : State) (q : PipeReg) (e : Bool) : (s.afterSyscall q e).fwdMode = s.fwdMode := rfl
@[simp] theorem State.afterSyscall_instrBudget (s : State) (q : PipeReg) (e : Bool) : (s.afterSyscall q e).instrBudget = s.instrBudget := rfl
@[simp] theorem State.afterSyscall_draws (s : State) (q : PipeReg) (e : Bool) : (s.afterSyscall q e).draws = s.draws := rfl
@[simp] theorem State.afterSyscall_lastTime (s : State) (q : PipeReg) (e : Bool) : (s.afterSyscall q e).lastTime = s.lastTime := rfl

/-! ## bump -/

@[simp] theorem State.bump_x (s : State) (c : CatSet) : (s.bump c).x = s.x := rfl
@[simp] theorem State.bump_f (s : State) (c : CatSet) : (s.bump c).f = s.f := rfl
@[simp] theorem State.bump_hi (s : State) (c : CatSet) : (s.bump c).hi = s.hi := rfl
@[simp] theorem State.bump_lo (s : State) (c : CatSet) : (s.bump c).lo = s.lo := rfl
@[simp] theorem State.bump_pc (s : State) (c : CatSet) : (s.bump c).pc = s.pc := rfl
@[simp] theorem State.bump_ifId (s : State) (c : CatSet) : (s.bump c).ifId = s.ifId := rfl
@[simp] theorem State.bump_idEx (s : State) (c : CatSet) : (s.bump c).idEx = s.idEx := rfl
@[simp] theorem State.bump_exMem (s : State) (c : CatSet) : (s.bump c).exMem = s.exMem := rfl
@[simp] theorem State.bump_memWb (s : State) (c : CatSet) : (s.bump c).memWb = s.memWb := rfl
@[simp] theorem State.bump_stall (s : State) (c : CatSet) : (s.bump c).stall = s.stall := rfl
@[simp] theorem State.bump_syscallPending (s : State) (c : CatSet) : (s.bump c).syscallPending = s.syscallPending := rfl
@[simp] theorem State.bump_illegalPending (s : State) (c : CatSet) : (s.bump c).illegalPending = s.illegalPending := rfl
@[simp] theorem State.bump_bdPending (s : State) (c : CatSet) : (s.bump c).bdPending = s.bdPending := rfl
@[simp] theorem State.bump_bdTaken (s : State) (c : CatSet) : (s.bump c).bdTaken = s.bdTaken := rfl
@[simp] theorem State.bump_bdTarget (s : State) (c : CatSet) : (s.bump c).bdTarget = s.bdTarget := rfl
@[simp] theorem State.bump_booted (s : State) (c : CatSet) : (s.bump c).booted = s.booted := rfl
@[simp] theorem State.bump_exit (s : State) (c : CatSet) : (s.bump c).exit = s.exit := rfl
@[simp] theorem State.bump_haltReason (s : State) (c : CatSet) : (s.bump c).haltReason = s.haltReason := rfl
@[simp] theorem State.bump_fault (s : State) (c : CatSet) : (s.bump c).fault = s.fault := rfl
@[simp] theorem State.bump_nCycles (s : State) (c : CatSet) : (s.bump c).nCycles = s.nCycles := rfl
@[simp] theorem State.bump_nFetched (s : State) (c : CatSet) : (s.bump c).nFetched = s.nFetched := rfl
@[simp] theorem State.bump_nCondBranch (s : State) (c : CatSet) : (s.bump c).nCondBranch = s.nCondBranch + c.condBranch.toNat := rfl
@[simp] theorem State.bump_nJal (s : State) (c : CatSet) : (s.bump c).nJal = s.nJal + c.jal.toNat := rfl
@[simp] theorem State.bump_nJr (s : State) (c : CatSet) : (s.bump c).nJr = s.nJr + c.jr.toNat := rfl
@[simp] theorem State.bump_nFp (s : State) (c : CatSet) : (s.bump c).nFp = s.nFp + c.fp.toNat := rfl
@[simp] theorem State.bump_nLoad (s : State) (c : CatSet) : (s.bump c).nLoad = s.nLoad + c.load.toNat := rfl
@[simp] theorem State.bump_nStore (s : State) (c : CatSet) : (s.bump c).nStore = s.nStore + c.store.toNat := rfl
@[simp] theorem State.bump_mem (s : State) (c : CatSet) : (s.bump c).mem = s.mem := rfl
@[simp] theorem State.bump_fwdMode (s : State) (c : CatSet) : (s.bump c).fwdMode = s.fwdMode := rfl
@[simp] theorem State.bump_instrBudget (s : State) (c : CatSet) : (s.bump c).instrBudget = s.instrBudget := rfl
@[simp] theorem State.bump_draws (s : State) (c : CatSet) : (s.bump c).draws = s.draws := rfl
@[simp] theorem State.bump_lastTime (s : State) (c : CatSet) : (s.bump c).lastTime = s.lastTime := rfl

/-! ## resolveDelaySlot -/

@[simp] theorem State.resolveDelaySlot_x (s : State) (r : AluOut) : (s.resolveDelaySlot r).x = s.x := by
  unfold State.resolveDelaySlot; repeat' split
  all_goals rfl
@[simp] theorem State.resolveDelaySlot_f (s : State) (r : AluOut) : (s.resolveDelaySlot r).f = s.f := by
  unfold State.resolveDelaySlot; repeat' split
  all_goals rfl
@[simp] theorem State.resolveDelaySlot_hi (s : State) (r : AluOut) : (s.resolveDelaySlot r).hi = s.hi := by
  unfold State.resolveDelaySlot; repeat' split
  all_goals rfl
@[simp] theorem State.resolveDelaySlot_lo (s : State) (r : AluOut) : (s.resolveDelaySlot r).lo = s.lo := by
  unfold State.resolveDelaySlot; repeat' split
  all_goals rfl
@[simp] theorem State.resolveDelaySlot_pc (s : State) (r : AluOut) : (s.resolveDelaySlot r).pc = if s.bdPending && s.bdTaken then s.bdTarget else s.pc := by
  unfold State.resolveDelaySlot; cases h : s.bdPending <;> cases h' : r.bd <;> simp_all
@[simp] theorem State.resolveDelaySlot_ifId (s : State) (r : AluOut) : (s.resolveDelaySlot r).ifId = s.ifId := by
  unfold State.resolveDelaySlot; repeat' split
  all_goals rfl
@[simp] theorem State.resolveDelaySlot_idEx (s : State) (r : AluOut) : (s.resolveDelaySlot r).idEx = s.idEx := by
  unfold State.resolveDelaySlot; repeat' split
  all_goals rfl
@[simp] theorem State.resolveDelaySlot_exMem (s : State) (r : AluOut) : (s.resolveDelaySlot r).exMem = s.exMem := by
  unfold State.resolveDelaySlot; repeat' split
  all_goals rfl
@[simp] theorem State.resolveDelaySlot_memWb (s : State) (r : AluOut) : (s.resolveDelaySlot r).memWb = s.memWb := by
  unfold State.resolveDelaySlot; repeat' split
  all_goals rfl
@[simp] theorem State.resolveDelaySlot_stall (s : State) (r : AluOut) : (s.resolveDelaySlot r).stall = s.stall := by
  unfold State.resolveDelaySlot; repeat' split
  all_goals rfl
@[simp] theorem State.resolveDelaySlot_syscallPending (s : State) (r : AluOut) : (s.resolveDelaySlot r).syscallPending = s.syscallPending := by
  unfold State.resolveDelaySlot; repeat' split
  all_goals rfl
@[simp] theorem State.resolveDelaySlot_illegalPending (s : State) (r : AluOut) : (s.resolveDelaySlot r).illegalPending = s.illegalPending := by
  unfold State.resolveDelaySlot; repeat' split
  all_goals rfl
@[simp] theorem State.resolveDelaySlot_bdPending (s : State) (r : AluOut) : (s.resolveDelaySlot r).bdPending = (!s.bdPending && r.bd) := by
  unfold State.resolveDelaySlot; cases h : s.bdPending <;> cases h' : r.bd <;> simp [h]
@[simp] theorem State.resolveDelaySlot_bdTaken (s : State) (r : AluOut) : (s.resolveDelaySlot r).bdTaken = if !s.bdPending && r.bd then r.btaken else s.bdTaken := by
  unfold State.resolveDelaySlot; cases h : s.bdPending <;> cases h' : r.bd <;> simp_all
@[simp] theorem State.resolveDelaySlot_bdTarget (s : State) (r : AluOut) : (s.resolveDelaySlot r).bdTarget = if !s.bdPending && r.bd then r.btgt else s.bdTarget := by
  unfold State.resolveDelaySlot; cases h : s.bdPending <;> cases h' : r.bd <;> simp_all
@[simp] theorem State.resolveDelaySlot_booted (s : State) (r : AluOut) : (s.resolveDelaySlot r).booted = s.booted := by
  unfold State.resolveDelaySlot; repeat' split
  all_goals rfl
@[simp] theorem State.resolveDelaySlot_exit (s : State) (r : AluOut) : (s.resolveDelaySlot r).exit = s.exit := by
  unfold State.resolveDelaySlot; repeat' split
  all_goals rfl
@[simp] theorem State.resolveDelaySlot_haltReason (s : State) (r : AluOut) : (s.resolveDelaySlot r).haltReason = s.haltReason := by
  unfold State.resolveDelaySlot; repeat' split
  all_goals rfl
@[simp] theorem State.resolveDelaySlot_fault (s : State) (r : AluOut) : (s.resolveDelaySlot r).fault = s.fault := by
  unfold State.resolveDelaySlot; repeat' split
  all_goals rfl
@[simp] theorem State.resolveDelaySlot_nCycles (s : State) (r : AluOut) : (s.resolveDelaySlot r).nCycles = s.nCycles := by
  unfold State.resolveDelaySlot; repeat' split
  all_goals rfl
@[simp] theorem State.resolveDelaySlot_nFetched (s : State) (r : AluOut) : (s.resolveDelaySlot r).nFetched = s.nFetched := by
  unfold State.resolveDelaySlot; repeat' split
  all_goals rfl
@[simp] theorem State.resolveDelaySlot_nCondBranch (s : State) (r : AluOut) : (s.resolveDelaySlot r).nCondBranch = s.nCondBranch := by
  unfold State.resolveDelaySlot; repeat' split
  all_goals rfl
@[simp] theorem State.resolveDelaySlot_nJal (s : State) (r : AluOut) : (s.resolveDelaySlot r).nJal = s.nJal := by
  unfold State.resolveDelaySlot; repeat' split
  all_goals rfl
@[simp] theorem State.resolveDelaySlot_nJr (s : State) (r : AluOut) : (s.resolveDelaySlot r).nJr = s.nJr := by
  unfold State.resolveDelaySlot; repeat' split
  all_goals rfl
@[simp] theorem State.resolveDelaySlot_nFp (s : State) (r : AluOut) : (s.resolveDelaySlot r).nFp = s.nFp := by
  unfold State.resolveDelaySlot; repeat' split
  all_goals rfl
@[simp] theorem State.resolveDelaySlot_nLoad (s : State) (r : AluOut) : (s.resolveDelaySlot r).nLoad = s.nLoad := by
  unfold State.resolveDelaySlot; repeat' split
  all_goals rfl
@[simp] theorem State.resolveDelaySlot_nStore (s : State) (r : AluOut) : (s.resolveDelaySlot r).nStore = s.nStore := by
  unfold State.resolveDelaySlot; repeat' split
  all_goals rfl
@[simp] theorem State.resolveDelaySlot_mem (s : State) (r : AluOut) : (s.resolveDelaySlot r).mem = s.mem := by
  unfold State.resolveDelaySlot; repeat' split
  all_goals rfl
@[simp] theorem State.resolveDelaySlot_fwdMode (s : State) (r : AluOut) : (s.resolveDelaySlot r).fwdMode = s.fwdMode := by
  unfold State.resolveDelaySlot; repeat' split
  all_goals rfl
@[simp] theorem State.resolveDelaySlot_instrBudget (s : State) (r : AluOut) : (s.resolveDelaySlot r).instrBudget = s.instrBudget := by
  unfold State.resolveDelaySlot; repeat' split
  all_goals rfl
@[simp] theorem State.resolveDelaySlot_draws (s : State) (r : AluOut) : (s.resolveDelaySlot r).draws = s.draws := by
  unfold State.resolveDelaySlot; repeat' split
  all_goals rfl
@[simp] theorem State.resolveDelaySlot_lastTime (s : State) (r : AluOut) : (s.resolveDelaySlot r).lastTime = s.lastTime := by
  unfold State.resolveDelaySlot; repeat' split
  all_goals rfl

/-! ## commitReg -/

@[simp] theorem State.commitReg_x (s : State) (q : PipeReg) : (s.commitReg q).x = if q.writeReg then s.x.set q.dst q.resLo else s.x := by
  unfold State.commitReg; cases q.writeReg <;> cases q.writeFReg <;> cases q.fpDouble <;> simp
@[simp] theorem State.commitReg_f (s : State) (q : PipeReg) : (s.commitReg q).f = if q.writeFReg then (if q.fpDouble then (s.f.set q.dst q.resLo).set (q.dst + 1 : RegIdx) q.resHi else s.f.set q.dst q.resLo) else s.f := by
  unfold State.commitReg; cases q.writeReg <;> cases q.writeFReg <;> cases q.fpDouble <;> simp
@[simp] theorem State.commitReg_hi (s : State) (q : PipeReg) : (s.commitReg q).hi = if q.hiWrite then q.resHi else s.hi := by
  unfold State.commitReg; cases q.writeReg <;> cases q.writeFReg <;> cases q.fpDouble <;> simp
@[simp] theorem State.commitReg_lo (s : State) (q : PipeReg) : (s.commitReg q).lo = if q.loWrite then q.resLo else s.lo := by
  unfold State.commitReg; cases q.writeReg <;> cases q.writeFReg <;> cases q.fpDouble <;> simp
@[simp] theorem State.commitReg_pc (s : State) (q : PipeReg) : (s.commitReg q).pc = s.pc := by
  unfold State.commitReg; cases q.writeReg <;> cases q.writeFReg <;> cases q.fpDouble <;> simp
@[simp] theorem State.commitReg_ifId (s : State) (q : PipeReg) : (s.commitReg q).ifId = s.ifId := by
  unfold State.commitReg; cases q.writeReg <;> cases q.writeFReg <;> cases q.fpDouble <;> simp
@[simp] theorem State.commitReg_idEx (s : State) (q : PipeReg) : (s.commitReg q).idEx = s.idEx := by
  unfold State.commitReg; cases q.writeReg <;> cases q.writeFReg <;> cases q.fpDouble <;> simp
@[simp] theorem State.commitReg_exMem (s : State) (q : PipeReg) : (s.commitReg q).exMem = s.exMem := by
  unfold State.commitReg; cases q.writeReg <;> cases q.writeFReg <;> cases q.fpDouble <;> simp
@[simp] theorem State.commitReg_memWb (s : State) (q : PipeReg) : (s.commitReg q).memWb = s.memWb := by
  unfold State.commitReg; cases q.writeReg <;> cases q.writeFReg <;> cases q.fpDouble <;> simp
@[simp] theorem State.commitReg_stall (s : State) (q : PipeReg) : (s.commitReg q).stall = s.stall := by
  unfold State.commitReg; cases q.writeReg <;> cases q.writeFReg <;> cases q.fpDouble <;> simp
@[simp] theorem State.commitReg_syscallPending (s : State) (q : PipeReg) : (s.commitReg q).syscallPending = s.syscallPending := by
  unfold State.commitReg; cases q.writeReg <;> cases q.writeFReg <;> cases q.fpDouble <;> simp
@[simp] theorem State.commitReg_illegalPending (s : State) (q : PipeReg) : (s.commitReg q).illegalPending = s.illegalPending := by
  unfold State.commitReg; cases q.writeReg <;> cases q.writeFReg <;> cases q.fpDouble <;> simp
@[simp] theorem State.commitReg_bdPending (s : State) (q : PipeReg) : (s.commitReg q).bdPending = s.bdPending := by
  unfold State.commitReg; cases q.writeReg <;> cases q.writeFReg <;> cases q.fpDouble <;> simp
@[simp] theorem State.commitReg_bdTaken (s : State) (q : PipeReg) : (s.commitReg q).bdTaken = s.bdTaken := by
  unfold State.commitReg; cases q.writeReg <;> cases q.writeFReg <;> cases q.fpDouble <;> simp
@[simp] theorem State.commitReg_bdTarget (s : State) (q : PipeReg) : (s.commitReg q).bdTarget = s.bdTarget := by
  unfold State.commitReg; cases q.writeReg <;> cases q.writeFReg <;> cases q.fpDouble <;> simp
@[simp] theorem State.commitReg_booted (s : State) (q : PipeReg) : (s.commitReg q).booted = s.booted := by
  unfold State.commitReg; cases q.writeReg <;> cases q.writeFReg <;> cases q.fpDouble <;> simp
@[simp] theorem State.commitReg_exit (s : State) (q : PipeReg) : (s.commitReg q).exit = s.exit := by
  unfold State.commitReg; cases q.writeReg <;> cases q.writeFReg <;> cases q.fpDouble <;> simp
@[simp] theorem State.commitReg_haltReason (s : State) (q : PipeReg) : (s.commitReg q).haltReason = s.haltReason := by
  unfold State.commitReg; cases q.writeReg <;> cases q.writeFReg <;> cases q.fpDouble <;> simp
@[simp] theorem State.commitReg_fault (s : State) (q : PipeReg) : (s.commitReg q).fault = s.fault := by
  unfold State.commitReg; cases q.writeReg <;> cases q.writeFReg <;> cases q.fpDouble <;> simp
@[simp] theorem State.commitReg_nCycles (s : State) (q : PipeReg) : (s.commitReg q).nCycles = s.nCycles := by
  unfold State.commitReg; cases q.writeReg <;> cases q.writeFReg <;> cases q.fpDouble <;> simp
@[simp] theorem State.commitReg_nFetched (s : State) (q : PipeReg) : (s.commitReg q).nFetched = s.nFetched := by
  unfold State.commitReg; cases q.writeReg <;> cases q.writeFReg <;> cases q.fpDouble <;> simp
@[simp] theorem State.commitReg_nCondBranch (s : State) (q : PipeReg) : (s.commitReg q).nCondBranch = s.nCondBranch := by
  unfold State.commitReg; cases q.writeReg <;> cases q.writeFReg <;> cases q.fpDouble <;> simp
@[simp] theorem State.commitReg_nJal (s : State) (q : PipeReg) : (s.commitReg q).nJal = s.nJal := by
  unfold State.commitReg; cases q.writeReg <;> cases q.writeFReg <;> cases q.fpDouble <;> simp
@[simp] theorem State.commitReg_nJr (s : State) (q : PipeReg) : (s.commitReg q).nJr = s.nJr := by
  unfold State.commitReg; cases q.writeReg <;> cases q.writeFReg <;> cases q.fpDouble <;> simp
@[simp] theorem State.commitReg_nFp (s : State) (q : PipeReg) : (s.commitReg q).nFp = s.nFp := by
  unfold State.commitReg; cases q.writeReg <;> cases q.writeFReg <;> cases q.fpDouble <;> simp
@[simp] theorem State.commitReg_nLoad (s : State) (q : PipeReg) : (s.commitReg q).nLoad = s.nLoad := by
  unfold State.commitReg; cases q.writeReg <;> cases q.writeFReg <;> cases q.fpDouble <;> simp
@[simp] theorem State.commitReg_nStore (s : State) (q : PipeReg) : (s.commitReg q).nStore = s.nStore := by
  unfold State.commitReg; cases q.writeReg <;> cases q.writeFReg <;> cases q.fpDouble <;> simp
@[simp] theorem State.commitReg_mem (s : State) (q : PipeReg) : (s.commitReg q).mem = s.mem := by
  unfold State.commitReg; cases q.writeReg <;> cases q.writeFReg <;> cases q.fpDouble <;> simp
@[simp] theorem State.commitReg_fwdMode (s : State) (q : PipeReg) : (s.commitReg q).fwdMode = s.fwdMode := by
  unfold State.commitReg; cases q.writeReg <;> cases q.writeFReg <;> cases q.fpDouble <;> simp
@[simp] theorem State.commitReg_instrBudget (s : State) (q : PipeReg) : (s.commitReg q).instrBudget = s.instrBudget := by
  unfold State.commitReg; cases q.writeReg <;> cases q.writeFReg <;> cases q.fpDouble <;> simp
@[simp] theorem State.commitReg_draws (s : State) (q : PipeReg) : (s.commitReg q).draws = s.draws := by
  unfold State.commitReg; cases q.writeReg <;> cases q.writeFReg <;> cases q.fpDouble <;> simp
@[simp] theorem State.commitReg_lastTime (s : State) (q : PipeReg) : (s.commitReg q).lastTime = s.lastTime := by
  unfold State.commitReg; cases q.writeReg <;> cases q.writeFReg <;> cases q.fpDouble <;> simp

/-! ## budgetCheck -/

@[simp] theorem State.budgetCheck_x (s : State) : s.budgetCheck.x = s.x := by
  unfold State.budgetCheck; split <;> simp_all
@[simp] theorem State.budgetCheck_f (s : State) : s.budgetCheck.f = s.f := by
  unfold State.budgetCheck; split <;> simp_all
@[simp] theorem State.budgetCheck_hi (s : State) : s.budgetCheck.hi = s.hi := by
  unfold State.budgetCheck; split <;> simp_all
@[simp] theorem State.budgetCheck_lo (s : State) : s.budgetCheck.lo = s.lo := by
  unfold State.budgetCheck; split <;> simp_all
@[simp] theorem State.budgetCheck_pc (s : State) : s.budgetCheck.pc = s.pc := by
  unfold State.budgetCheck; split <;> simp_all
@[simp] theorem State.budgetCheck_ifId (s : State) : s.budgetCheck.ifId = s.ifId := by
  unfold State.budgetCheck; split <;> simp_all
@[simp] theorem State.budgetCheck_idEx (s : State) : s.budgetCheck.idEx = s.idEx := by
  unfold State.budgetCheck; split <;> simp_all
@[simp] theorem State.budgetCheck_exMem (s : State) : s.budgetCheck.exMem = s.exMem := by
  unfold State.budgetCheck; split <;> simp_all
@[simp] theorem State.budgetCheck_memWb (s : State) : s.budgetCheck.memWb = s.memWb := by
  unfold State.budgetCheck; split <;> simp_all
@[simp] theorem State.budgetCheck_stall (s : State) : s.budgetCheck.stall = s.stall := by
  unfold State.budgetCheck; split <;> simp_all
@[simp] theorem State.budgetCheck_syscallPending (s : State) : s.budgetCheck.syscallPending = s.syscallPending := by
  unfold State.budgetCheck; split <;> simp_all
@[simp] theorem State.budgetCheck_illegalPending (s : State) : s.budgetCheck.illegalPending = s.illegalPending := by
  unfold State.budgetCheck; split <;> simp_all
@[simp] theorem State.budgetCheck_bdPending (s : State) : s.budgetCheck.bdPending = s.bdPending := by
  unfold State.budgetCheck; split <;> simp_all
@[simp] theorem State.budgetCheck_bdTaken (s : State) : s.budgetCheck.bdTaken = s.bdTaken := by
  unfold State.budgetCheck; split <;> simp_all
@[simp] theorem State.budgetCheck_bdTarget (s : State) : s.budgetCheck.bdTarget = s.bdTarget := by
  unfold State.budgetCheck; split <;> simp_all
@[simp] theorem State.budgetCheck_booted (s : State) : s.budgetCheck.booted = s.booted := by
  unfold State.budgetCheck; split <;> simp_all
@[simp] theorem State.budgetCheck_exit (s : State) : s.budgetCheck.exit = (s.exit || (s.budgetReached && s.drained && !s.syscallPending)) := by
  unfold State.budgetCheck; split <;> simp_all
@[simp] theorem State.budgetCheck_haltReason (s : State) : s.budgetCheck.haltReason = if s.budgetReached && s.drained && !s.syscallPending then some .budget else s.haltReason := by
  unfold State.budgetCheck; split <;> simp_all
@[simp] theorem State.budgetCheck_fault (s : State) : s.budgetCheck.fault = s.fault := by
  unfold State.budgetCheck; split <;> simp_all
@[simp] theorem State.budgetCheck_nCycles (s : State) : s.budgetCheck.nCycles = s.nCycles := by
  unfold State.budgetCheck; split <;> simp_all
@[simp] theorem State.budgetCheck_nFetched (s : State) : s.budgetCheck.nFetched = s.nFetched := by
  unfold State.budgetCheck; split <;> simp_all
@[simp] theorem State.budgetCheck_nCondBranch (s : State) : s.budgetCheck.nCondBranch = s.nCondBranch := by
  unfold State.budgetCheck; split <;> simp_all
@[simp] theorem State.budgetCheck_nJal (s : State) : s.budgetCheck.nJal = s.nJal := by
  unfold State.budgetCheck; split <;> simp_all
@[simp] theorem State.budgetCheck_nJr (s : State) : s.budgetCheck.nJr = s.nJr := by
  unfold State.budgetCheck; split <;> simp_all
@[simp] theorem State.budgetCheck_nFp (s : State) : s.budgetCheck.nFp = s.nFp := by
  unfold State.budgetCheck; split <;> simp_all
@[simp] theorem State.budgetCheck_nLoad (s : State) : s.budgetCheck.nLoad = s.nLoad := by
  unfold State.budgetCheck; split <;> simp_all
@[simp] theorem State.budgetCheck_nStore (s : State) : s.budgetCheck.nStore = s.nStore := by
  unfold State.budgetCheck; split <;> simp_all
@[simp] theorem State.budgetCheck_mem (s : State) : s.budgetCheck.mem = s.mem := by
  unfold State.budgetCheck; split <;> simp_all
@[simp] theorem State.budgetCheck_fwdMode (s : State) : s.budgetCheck.fwdMode = s.fwdMode := by
  unfold State.budgetCheck; split <;> simp_all
@[simp] theorem State.budgetCheck_instrBudget (s : State) : s.budgetCheck.instrBudget = s.instrBudget := by
  unfold State.budgetCheck; split <;> simp_all
@[simp] theorem State.budgetCheck_draws (s : State) : s.budgetCheck.draws = s.draws := by
  unfold State.budgetCheck; split <;> simp_all
@[simp] theorem State.budgetCheck_lastTime (s : State) : s.budgetCheck.lastTime = s.lastTime := by
  unfold State.budgetCheck; split <;> simp_all

/-! ## commit -/

@[simp] theorem State.commit_x (s : State) : s.commit.x = s.x := by
  simp [State.commit]
@[simp] theorem State.commit_f (s : State) : s.commit.f = s.f := by
  simp [State.commit]
@[simp] theorem State.commit_hi (s : State) : s.commit.hi = s.hi := by
  simp [State.commit]
@[simp] theorem State.commit_lo (s : State) : s.commit.lo = s.lo := by
  simp [State.commit]
@[simp] theorem State.commit_pc (s : State) : s.commit.pc = s.pc := by
  simp [State.commit]
@[simp] theorem State.commit_ifId (s : State) : s.commit.ifId = s.ifId.commit := by
  simp [State.commit]
@[simp] theorem State.commit_idEx (s : State) : s.commit.idEx = s.idEx.commit := by
  simp [State.commit]
@[simp] theorem State.commit_exMem (s : State) : s.commit.exMem = s.exMem.commit := by
  simp [State.commit]
@[simp] theorem State.commit_memWb (s : State) : s.commit.memWb = s.memWb.commit := by
  simp [State.commit]
@[simp] theorem State.commit_stall (s : State) : s.commit.stall = s.stall := by
  simp [State.commit]
@[simp] theorem State.commit_syscallPending (s : State) : s.commit.syscallPending = s.syscallPending := by
  simp [State.commit]
@[simp] theorem State.commit_illegalPending (s : State) : s.commit.illegalPending = s.illegalPending := by
  simp [State.commit]
@[simp] theorem State.commit_bdPending (s : State) : s.commit.bdPending = s.bdPending := by
  simp [State.commit]
@[simp] theorem State.commit_bdTaken (s : State) : s.commit.bdTaken = s.bdTaken := by
  simp [State.commit]
@[simp] theorem State.commit_bdTarget (s : State) : s.commit.bdTarget = s.bdTarget := by
  simp [State.commit]
@[simp] theorem State.commit_booted (s : State) : s.commit.booted = s.booted := by
  simp [State.commit]
@[simp] theorem State.commit_fault (s : State) : s.commit.fault = s.fault := by
  simp [State.commit]
@[simp] theorem State.commit_nCycles (s : State) : s.commit.nCycles = s.nCycles + 1 := by
  simp [State.commit]
@[simp] theorem State.commit_nFetched (s : State) : s.commit.nFetched = s.nFetched := by
  simp [State.commit]
@[simp] theorem State.commit_nCondBranch (s : State) : s.commit.nCondBranch = s.nCondBranch := by
  simp [State.commit]
@[simp] theorem State.commit_nJal (s : State) : s.commit.nJal = s.nJal := by
  simp [State.commit]
@[simp] theorem State.commit_nJr (s : State) : s.commit.nJr = s.nJr := by
  simp [State.commit]
@[simp] theorem State.commit_nFp (s : State) : s.commit.nFp = s.nFp := by
  simp [State.commit]
@[simp] theorem State.commit_nLoad (s : State) : s.commit.nLoad = s.nLoad := by
  simp [State.commit]
@[simp] theorem State.commit_nStore (s : State) : s.commit.nStore = s.nStore := by
  simp [State.commit]
@[simp] theorem State.commit_mem (s : State) : s.commit.mem = s.mem := by
  simp [State.commit]
@[simp] theorem State.commit_fwdMode (s : State) : s.commit.fwdMode = s.fwdMode := by
  simp [State.commit]
@[simp] theorem State.commit_instrBudget (s : State) : s.commit.instrBudget = s.instrBudget := by
  simp [State.commit]
@[simp] theorem State.commit_draws (s : State) : s.commit.draws = s.draws := by
  simp [State.commit]
@[simp] theorem State.commit_lastTime (s : State) : s.commit.lastTime = s.lastTime := by
  simp [State.commit]

@[simp] theorem PipePair.commit_cur (p : PipePair) : p.commit.cur = p.nxt := rfl
@[simp] theorem PipePair.commit_nxt (p : PipePair) : p.commit.nxt = p.nxt := rfl

/-- After the commit the core has halted on the budget exactly when R94's condition holds, if it had not halted before. -/
theorem State.commit_exit (s : State) (h : s.exit = false) :
    s.commit.exit = (s.commit.budgetReached && s.commit.drained && !s.commit.syscallPending) := by
  have h1 : ∀ t : State, t.budgetCheck.budgetReached = t.budgetReached := fun t => by simp [State.budgetReached]
  have h2 : ∀ t : State, t.budgetCheck.drained = t.drained := fun t => by simp [State.drained]
  have h3 : s.latch.countCycle.exit = false := by simp [h]
  rw [State.commit, h1, h2, State.budgetCheck_exit, State.budgetCheck_syscallPending, h3, Bool.false_or]

end Sys2Proof.Machine
end

