-- ==== Sys2Proof/Laws/Stages.lean ====
section
/-! SUPPORT. Everything each stage, the tick and the step can do, said once (40_clock_fetch.md R83; 41_decode_hazard.md R120;
42_execute_delay_slot.md R137; 43_memory_writeback.md R146, R155). Later proofs cite these and unfold no stage. -/

namespace Sys2Proof.Machine

/-- Writeback: a bubble, an answered system call, an illegal opcode or a normal instruction. -/
theorem wbStep_cases {c : Cfg} {s t : State} (h : wbStep c s = .ok t) :
    (s.memWb.cur.isNop = true ∧ t = s.forceX0) ∨
    (s.memWb.cur.isNop = false ∧ s.memWb.cur.isSyscall = true ∧
      ∃ u e, (c.syscall { reg := s.memWb.cur }).run s = .ok (u, e) ∧
        t = (u.afterSyscall s.memWb.cur e).forceX0) ∨
    (s.memWb.cur.isNop = false ∧ s.memWb.cur.isSyscall = false ∧ s.memWb.cur.isIllegal = true ∧ t = s.haltIllegal) ∨
    (s.memWb.cur.isNop = false ∧ s.memWb.cur.isSyscall = false ∧ s.memWb.cur.isIllegal = false ∧
      t = (s.commitReg s.memWb.cur).forceX0) := by
  unfold wbStep handSyscall resumeSyscall at h
  cases hn : s.memWb.cur.isNop
  · cases hs : s.memWb.cur.isSyscall
    · cases hi : s.memWb.cur.isIllegal <;> simp only [hn, hs, hi, Bool.false_eq_true, if_false, if_true] at h <;> cases h <;> simp
    · simp only [hn, hs, Bool.false_eq_true, if_false, if_true] at h
      refine .inr (.inl ⟨rfl, rfl, ?_⟩)
      split at h
      · rename_i u hu
        split at hu
        · rename_i v e ho
          cases hu
          cases h
          exact ⟨v, e, ho, rfl⟩
        · cases hu
      · cases h
  · simp only [hn, if_true] at h
    cases h
    exact .inl ⟨rfl, rfl⟩

/-- Memory: the pass of the register, and the memory it left. -/
theorem memStep_ok {c : Cfg} {s t : State} (h : memStep c s = .ok t) :
    ∃ p m, memPass c.memop s.exMem.cur s.mem = .ok (p, m) ∧ t = (s.putMemWb p).withMem m := by
  unfold memStep at h
  split at h
  · rename_i p m hp
    cases h
    exact ⟨p, m, hp, rfl⟩
  · cases h

/-- What a register that came through Memory is: itself, or itself with the handler's results. -/
theorem memPass_cases {memop : Mnemonic → MemIn → Memory → Except Fault MemOut} {p q : PipeReg} {m n : Memory}
    (h : memPass memop p m = .ok (q, n)) :
    (q = p ∧ n = m ∧ (p.isNop = true ∨ p.memOp = false ∨ p.isIllegal = true)) ∨
    (p.isNop = false ∧ p.memOp = true ∧ p.isIllegal = false ∧
      ∃ id o, p.memId = some id ∧ memop id (memInput p) m = .ok o ∧ q = p.withResult o.resLo o.resHi ∧ n = o.mem) := by
  unfold memPass at h
  split at h
  · rename_i hc
    simp only [Bool.and_eq_true, Bool.not_eq_eq_eq_not, Bool.not_true] at hc
    split at h
    · rename_i id hid
      split at h
      · rename_i o ho
        cases h
        exact .inr ⟨hc.1.1, hc.1.2, hc.2, id, o, hid, ho, rfl, rfl⟩
      · cases h
    · cases h
  · rename_i hc
    cases h
    refine .inl ⟨rfl, rfl, ?_⟩
    cases h1 : p.isNop <;> cases h2 : p.memOp <;> cases h3 : p.isIllegal <;> simp_all

/-- Execute's part of one instruction. -/
theorem execPass_cases {alu : Mnemonic → AluIn → AluOut} {i p : PipeReg} {v1 v2 : DWord} {s t : State}
    (h : execPass alu i v1 v2 s = .ok (p, t)) :
    ∃ out, out = aluCall alu i (aluInput i v1 v2 s.hi s.lo) ∧ out.fault = none ∧ (s.bdPending && out.bd) = false ∧
      p = executed i v1 v2 out ∧ t = (if i.aluId.isSome then s.bump i.cat else s).resolveDelaySlot out := by
  unfold execPass at h
  refine ⟨_, rfl, ?_⟩
  dsimp only at h
  split at h
  · cases h
  · rename_i hf
    split at h
    · cases h
    · rename_i hb
      cases h
      exact ⟨hf, by simpa using hb, rfl, rfl⟩

/-- Execute: a bubble, an illegal opcode, a system call outside a delay slot, or an instruction that ran. -/
theorem exStep_cases {c : Cfg} {s t : State} (h : exStep c s = .ok t) :
    (s.idEx.cur.isNop = true ∧ t = s.putExMem bubble) ∨
    (s.idEx.cur.isNop = false ∧ s.idEx.cur.isIllegal = true ∧ t = s.putExMem s.idEx.cur) ∨
    (s.idEx.cur.isNop = false ∧ s.idEx.cur.isIllegal = false ∧ s.idEx.cur.isSyscall = true ∧ s.bdPending = false ∧
      t = s.putExMem s.idEx.cur) ∨
    (s.idEx.cur.isNop = false ∧ s.idEx.cur.isIllegal = false ∧ s.idEx.cur.isSyscall = false ∧
      ∃ p u, execPass c.alu s.idEx.cur (fwdVal s s.idEx.cur.fwd1 s.idEx.cur.val1) (fwdVal s s.idEx.cur.fwd2 s.idEx.cur.val2) s
        = .ok (p, u) ∧ t = u.putExMem p) := by
  unfold exStep at h
  cases hn : s.idEx.cur.isNop
  · cases hi : s.idEx.cur.isIllegal
    · cases hs : s.idEx.cur.isSyscall
      · simp only [hn, hi, hs, Bool.false_eq_true, if_false] at h
        refine .inr (.inr (.inr ⟨rfl, rfl, rfl, ?_⟩))
        split at h
        · rename_i p u hp
          cases h
          exact ⟨p, u, hp, rfl⟩
        · cases h
      · cases hb : s.bdPending
        · simp only [hn, hi, hs, hb, Bool.false_eq_true, if_false, if_true] at h
          cases h
          exact .inr (.inr (.inl ⟨rfl, rfl, rfl, rfl, rfl⟩))
        · simp only [hn, hi, hs, hb, Bool.false_eq_true, if_false, if_true] at h
          cases h
    · simp only [hn, hi, Bool.false_eq_true, if_false, if_true] at h
      cases h
      exact .inr (.inl ⟨rfl, rfl, rfl⟩)
  · simp only [hn, if_true] at h
    cases h
    exact .inl ⟨rfl, rfl⟩

/-- Decode: a bubble, an illegal word, a stalled instruction or a decoded one. -/
theorem idStep_cases {c : Cfg} {s t : State} (h : idStep c s = .ok t) :
    (s.ifId.cur.isNop = true ∧ t = (s.setStall false).putIdEx bubble) ∨
    (s.ifId.cur.isNop = false ∧ c.decode s.ifId.cur.ins = .illegal ∧
      t = ((s.setStall false).putIdEx (illegalReg s.ifId.cur)).raiseIllegal) ∨
    (s.ifId.cur.isNop = false ∧ ∃ d, c.decode s.ifId.cur.ins = .legal d ∧ d.contract = true ∧
      ((stallDecision s.fwdMode d s.idEx.cur s.exMem.cur = true ∧ t = (s.setStall true).putIdEx bubble) ∨
       (stallDecision s.fwdMode d s.idEx.cur s.exMem.cur = false ∧
        t = ((s.setStall false).putIdEx (decoded s.ifId.cur d (s.readOp d.fpDouble d.src1) (s.readOp d.fpDouble d.src2)
          (selectSrc s.fwdMode s.idEx.cur s.exMem.cur d.src1).2
          (selectSrc s.fwdMode s.idEx.cur s.exMem.cur d.src2).2)).raiseSyscall d.isSyscall))) := by
  unfold idStep at h
  cases hn : s.ifId.cur.isNop
  · simp only [hn, Bool.false_eq_true, if_false] at h
    split at h
    · cases h
    · rename_i hd
      cases h
      exact .inr (.inl ⟨rfl, hd, rfl⟩)
    · rename_i d hd
      split at h
      · rename_i hc
        cases h
        refine .inr (.inr ⟨rfl, d, hd, hc, ?_⟩)
        unfold idLegal
        cases hs : stallDecision s.fwdMode d s.idEx.cur s.exMem.cur
        · right; simp [hs]
        · left; simp [hs]
      · cases h
  · simp only [hn, if_true] at h
    cases h
    exact .inl ⟨rfl, rfl⟩

/-- Fetch: a fetched word, a held instruction or a cleared register. -/
theorem ifStep_cases {s t : State} (h : ifStep s = .ok t) :
    (s.fetchEn = true ∧ ∃ w, fetchWord s.mem s.pc = .ok w ∧
      t = ((s.putIfId (fetched s.pc w)).setPc (s.pc + 4)).countFetch) ∨
    (s.fetchEn = false ∧ s.stall = true ∧ t = s.putIfId s.ifId.cur) ∨
    (s.fetchEn = false ∧ s.stall = false ∧ t = s.putIfId bubble) := by
  unfold ifStep at h
  split at h
  · rename_i he
    split at h
    · rename_i w hw
      cases h
      exact .inl ⟨he, w, hw, rfl⟩
    · cases h
  · rename_i he
    split at h
    · rename_i hs
      cases h
      exact .inr (.inl ⟨by simpa using he, hs, rfl⟩)
    · rename_i hs
      cases h
      exact .inr (.inr ⟨by simpa using he, by simpa using hs, rfl⟩)

/-- The tick: Writeback ends it, or the other four stages and the commit follow. -/
theorem tick_cases {c : Cfg} {s t : State} (h : tick c s = .ok t) :
    ∃ s1, wbStep c s = .ok s1 ∧
      ((s1.exit = true ∧ t = s1.countCycle) ∨
       (s1.exit = false ∧ ∃ s2 s3 s4 s5, memStep c s1 = .ok s2 ∧ exStep c s2 = .ok s3 ∧ idStep c s3 = .ok s4 ∧
          ifStep s4 = .ok s5 ∧ t = s5.commit)) := by
  unfold tick afterWriteback at h
  simp only [bind, Except.bind, pure, Except.pure] at h
  cases h1 : wbStep c s with
  | error r => simp [h1] at h
  | ok s1 =>
    simp only [h1] at h
    refine ⟨s1, rfl, ?_⟩
    cases he : s1.exit
    · simp only [he, Bool.false_eq_true, if_false] at h
      cases h2 : memStep c s1 with
      | error r => simp [h2] at h
      | ok s2 =>
        simp only [h2] at h
        cases h3 : exStep c s2 with
        | error r => simp [h3] at h
        | ok s3 =>
          simp only [h3] at h
          cases h4 : idStep c s3 with
          | error r => simp [h4] at h
          | ok s4 =>
            simp only [h4] at h
            cases h5 : ifStep s4 with
            | error r => simp [h5] at h
            | ok s5 =>
              simp only [h5] at h
              cases h
              exact .inr ⟨rfl, s2, s3, s4, s5, rfl, h3, h4, h5, rfl⟩
    · simp only [he, if_true] at h
      cases h
      exact .inl ⟨rfl, rfl⟩

/-- The tick from its stages: Writeback halted. -/
theorem tick_of_halt {c : Cfg} {s s1 : State} (h1 : wbStep c s = .ok s1) (he : s1.exit = true) :
    tick c s = .ok s1.countCycle := by
  simp [tick, afterWriteback, bind, Except.bind, h1, he]

/-- The tick from its stages: all six steps. -/
theorem tick_of_steps {c : Cfg} {s s1 s2 s3 s4 s5 : State} (h1 : wbStep c s = .ok s1) (he : s1.exit = false)
    (h2 : memStep c s1 = .ok s2) (h3 : exStep c s2 = .ok s3) (h4 : idStep c s3 = .ok s4) (h5 : ifStep s4 = .ok s5) :
    tick c s = .ok s5.commit := by
  simp [tick, afterWriteback, bind, Except.bind, pure, Except.pure, h1, he, h2, h3, h4, h5]

/-- A step that answers a next state is a tick of a state that may tick. -/
theorem step_next {s t : State} : step s = .next t ↔
    s.fault = none ∧ s.booted = true ∧ s.exit = false ∧ tick Cfg.reference s = .ok t := by
  unfold step guardedTick toOutcome
  cases hf : s.fault <;> cases hb : s.booted <;> cases he : s.exit <;> simp
  cases tick Cfg.reference s <;> simp

end Sys2Proof.Machine
end

