-- ==== Sys2Proof/Laws/Memory.lean ====
section
/-! SUPPORT. Laws of the memory operations (20_memory.md R47, R49, R55): every one keeps the canonical form, a byte reads as last
written, and a write leaves every other byte alone. -/

namespace Sys2Proof.Machine

/-! ## The list -/

/-- Every entry of a canonical memory with first key `a` lies above `a`. -/
theorem Memory.lookup_lt_of_wf {m : Memory} {a : Nat} {v : Byte} (h : Memory.wf ((a, v) :: m) = true) {b : Nat} (hb : b ≤ a) :
    Memory.lookup m b = none := by
  induction m generalizing a v with
  | nil => rfl
  | cons c m ih =>
    obtain ⟨k, w⟩ := c
    simp only [Memory.wf, Bool.and_eq_true, decide_eq_true_eq] at h
    have : b ≠ k := by omega
    simp only [Memory.lookup, this, if_false]
    exact ih h.2 (by omega)

/-- Inserting a byte makes it the one found at its key and changes no other key. -/
theorem Memory.lookup_insert (m : Memory) (a b : Nat) (v : Byte) :
    Memory.lookup (Memory.insert m a v) b = if b = a then some v else Memory.lookup m b := by
  induction m with
  | nil => simp [Memory.insert, Memory.lookup]
  | cons c m ih =>
    obtain ⟨k, w⟩ := c
    simp only [Memory.insert]
    split
    · simp [Memory.lookup]
    · split
      · subst_vars
        simp only [Memory.lookup]
        split <;> rfl
      · simp only [Memory.lookup, ih]
        by_cases hb : b = k
        · subst hb
          have : b ≠ a := by omega
          simp [this]
        · simp [hb]

/-- The tail of a canonical memory is canonical. -/
theorem Memory.wf_tail {c : Host.Cell} {m : Memory} (h : Memory.wf (c :: m) = true) : Memory.wf m = true := by
  cases m with
  | nil => rfl
  | cons d m =>
    simp only [Memory.wf, Bool.and_eq_true] at h
    exact h.2

/-- A canonical memory with a smaller first key in front is canonical. -/
theorem Memory.wf_cons {m : Memory} {a : Nat} {v : Byte} (ha : a < 2 ^ 32) (hm : Memory.wf m = true)
    (hh : ∀ c ∈ m.head?, a < c.1) : Memory.wf ((a, v) :: m) = true := by
  cases m with
  | nil => simpa [Memory.wf] using ha
  | cons d m =>
    simp only [Memory.wf, Bool.and_eq_true, decide_eq_true_eq]
    exact ⟨hh d (by simp), hm⟩

/-- The first key of a memory after an insert is the old first key or the new one. -/
theorem Memory.head_insert {m : Memory} {a : Nat} {v : Byte} {c : Host.Cell} (h : c ∈ (Memory.insert m a v).head?) :
    c.1 = a ∨ ∃ d ∈ m.head?, c.1 = d.1 := by
  cases m with
  | nil => simp [Memory.insert] at h; left; rw [← h]
  | cons d m =>
    simp only [Memory.insert] at h
    split at h
    · simp at h; left; rw [← h]
    · split at h
      · simp at h; left; rw [← h]
      · simp at h; right; exact ⟨d, by simp, by rw [← h]⟩

/-- Inserting a byte below 2^32 keeps the canonical form. -/
theorem Memory.wf_insert {m : Memory} {a : Nat} (v : Byte) (ha : a < 2 ^ 32) (hm : Memory.wf m = true) :
    Memory.wf (Memory.insert m a v) = true := by
  induction m with
  | nil => simpa [Memory.insert, Memory.wf] using ha
  | cons c m ih =>
    obtain ⟨k, w⟩ := c
    simp only [Memory.insert]
    split
    · rename_i h
      simp only [Memory.wf, Bool.and_eq_true, decide_eq_true_eq]
      exact ⟨h, hm⟩
    · split
      · rename_i _ h
        subst h
        cases m with
        | nil => simpa [Memory.wf] using ha
        | cons d m => simpa [Memory.wf] using hm
      · have hk : k < 2 ^ 32 := by omega
        refine Memory.wf_cons hk (ih (Memory.wf_tail hm)) ?_
        intro c hc
        rcases Memory.head_insert hc with h | ⟨d, hd, h⟩
        · omega
        · cases m with
          | nil => simp at hd
          | cons e m =>
            simp at hd
            subst hd
            obtain ⟨k', w'⟩ := e
            simp only [Memory.wf, Bool.and_eq_true, decide_eq_true_eq] at hm
            rw [h]; exact hm.1

/-! ## Bytes -/

/-- A byte reads as last written, and a write leaves every other byte alone. -/
theorem Memory.byte?_write1 (m : Memory) (a b : Word) (v : Byte) :
    Memory.byte? (Memory.write1 m a v) b = if b = a then some v else Memory.byte? m b := by
  simp only [Memory.byte?, Memory.write1, Memory.lookup_insert, BitVec.toNat_inj]

@[simp] theorem Memory.byte?_write1_same (m : Memory) (a : Word) (v : Byte) :
    Memory.byte? (Memory.write1 m a v) a = some v := by simp [Memory.byte?_write1]

theorem Memory.byte?_write1_other {m : Memory} {a b : Word} {v : Byte} (h : b ≠ a) :
    Memory.byte? (Memory.write1 m a v) b = Memory.byte? m b := by simp [Memory.byte?_write1, h]

/-- Reading a byte is finding it. -/
theorem Memory.read1_ok {m : Memory} {a : Word} {v : Byte} : Memory.read1 m a = .ok v ↔ Memory.byte? m a = some v := by
  unfold Memory.read1
  cases h : Memory.byte? m a <;> simp

/-- Reading a byte faults, naming it, exactly where it has no value. -/
theorem Memory.read1_error {m : Memory} {a : Word} {r : Fault} :
    Memory.read1 m a = .error r ↔ Memory.byte? m a = none ∧ r = .undefinedRead a := by
  unfold Memory.read1
  cases h : Memory.byte? m a <;> simp [eq_comm]

/-! ## The canonical form is kept -/

theorem Memory.wf_write1 {m : Memory} (a : Word) (v : Byte) (h : Memory.wf m = true) : Memory.wf (Memory.write1 m a v) = true :=
  Memory.wf_insert v a.isLt h

theorem Memory.wf_write2 {m : Memory} (a : Word) (v : BitVec 16) (h : Memory.wf m = true) :
    Memory.wf (Memory.write2 m a v) = true := Memory.wf_write1 _ _ (Memory.wf_write1 _ _ h)

theorem Memory.wf_write4 {m : Memory} (a v : Word) (h : Memory.wf m = true) : Memory.wf (Memory.write4 m a v) = true :=
  Memory.wf_write1 _ _ (Memory.wf_write1 _ _ (Memory.wf_write1 _ _ (Memory.wf_write1 _ _ h)))

theorem Memory.wf_write8 {m : Memory} (a : Word) (v : DWord) (h : Memory.wf m = true) : Memory.wf (Memory.write8 m a v) = true :=
  Memory.wf_write4 _ _ (Memory.wf_write4 _ _ h)

theorem Memory.wf_writeLanes {m : Memory} (ls : List (Word × Nat)) (v : Word) (h : Memory.wf m = true) :
    Memory.wf (Memory.writeLanes m ls v) = true := by
  induction ls generalizing m with
  | nil => exact h
  | cons l ls ih => exact ih (Memory.wf_write1 _ _ h)

theorem imageMemory_wf (image : List (Word × Byte)) : Memory.wf (imageMemory image) = true := by
  unfold imageMemory
  suffices h : ∀ m : Memory, Memory.wf m = true →
      Memory.wf (image.foldl (fun m c => Memory.write1 m c.1 c.2) m) = true from h [] rfl
  induction image with
  | nil => exact fun m hm => hm
  | cons c image ih => exact fun m hm => ih _ (Memory.wf_write1 _ _ hm)

theorem State.reset_mem_wf : Memory.wf State.reset.mem = true := rfl

/-! ## Lanes -/

/-- A byte outside the lanes' addresses is left alone. -/
theorem Memory.byte?_writeLanes_other {ls : List (Word × Nat)} {b : Word} (h : b ∉ ls.map (·.1)) (m : Memory) (v : Word) :
    Memory.byte? (Memory.writeLanes m ls v) b = Memory.byte? m b := by
  induction ls generalizing m with
  | nil => rfl
  | cons l ls ih =>
    simp only [List.map_cons, List.mem_cons, not_or] at h
    rw [Memory.writeLanes, ih h.2, Memory.byte?_write1_other h.1]

end Sys2Proof.Machine
end

