-- ==== Sys2Proof/Laws/Syscall.lean ====
section
/-! SUPPORT. What any system-call collaborator can do, said once (60_exceptions.md R282; 40_clock_fetch.md R97), and the tick as one
of the outcomes the relation allows. -/

namespace Sys2Proof.Machine

/-- A call changes the general registers but `x[0]`, memory, the two counters and the model's record of its draws, and nothing else; the counters
and the times only grow. -/
structure SysFrame (s t : State) : Prop where
  same : t = { s with x := t.x, mem := t.mem, nLoad := t.nLoad, nStore := t.nStore, draws := t.draws, lastTime := t.lastTime }
  x0 : t.x[(0 : RegIdx)] = s.x[(0 : RegIdx)]
  loads : s.nLoad ≤ t.nLoad
  stores : s.nStore ≤ t.nStore
  times : s.lastTime ≤ t.lastTime

theorem SysFrame.refl (s : State) : SysFrame s s := ⟨rfl, rfl, Nat.le_refl _, Nat.le_refl _, BitVec.le_refl _⟩

theorem SysFrame.trans {s t u : State} (h : SysFrame s t) (k : SysFrame t u) : SysFrame s u :=
  ⟨by rw [k.same, h.same], k.x0.trans h.x0, Nat.le_trans h.loads k.loads, Nat.le_trans h.stores k.stores, BitVec.le_trans h.times k.times⟩

theorem SysFrame.sysWriteGpr (s : State) (i : RegIdx) (v : Word) : SysFrame s (s.sysWriteGpr i v) := by
  by_cases h : i = 0
  · rw [State.sysWriteGpr, if_pos h]
    exact .refl s
  · rw [State.sysWriteGpr, if_neg h]
    have h0 : i.val ≠ 0 := fun hv => h (Fin.ext hv)
    exact ⟨rfl, by simp [State.writeGpr, h0], Nat.le_refl _, Nat.le_refl _, BitVec.le_refl _⟩

theorem SysFrame.countLoad (s : State) : SysFrame s s.countLoad := ⟨rfl, rfl, Nat.le_succ _, Nat.le_refl _, BitVec.le_refl _⟩

theorem SysFrame.store (s : State) (m : Memory) : SysFrame s (s.withMem m).countStore :=
  ⟨rfl, rfl, Nat.le_refl _, Nat.le_succ _, BitVec.le_refl _⟩

theorem SysFrame.tookTime (s : State) {t : DWord} (h : s.lastTime ≤ t) : SysFrame s (s.tookTime t) :=
  ⟨rfl, rfl, Nat.le_refl _, Nat.le_refl _, h⟩

theorem SysFrame.tookChoice (s : State) : SysFrame s s.tookChoice := ⟨rfl, rfl, Nat.le_refl _, Nat.le_refl _, BitVec.le_refl _⟩

/-- Every outcome the relation allows keeps the limits of 60_exceptions.md R282. -/
theorem SysProg.Allows.frame {p : SysProg} {s t : State} {e : Bool} (h : p.Allows s (.ok (t, e))) : SysFrame s t := by
  induction p generalizing s with
  | done b => cases h; exact .refl _
  | fault r => cases h
  | getReg i k ih => exact ih _ h
  | setReg i v k ih => exact (SysFrame.sysWriteGpr s i v).trans (ih h)
  | getWord a k ih =>
    simp only [SysProg.Allows] at h
    split at h
    · exact (SysFrame.countLoad s).trans (ih _ h)
    · cases h
  | setWord a v k ih => exact (SysFrame.store s _).trans (ih h)
  | getDouble a k ih =>
    simp only [SysProg.Allows] at h
    split at h
    · exact (SysFrame.countLoad s).trans (ih _ h)
    · cases h
  | setDouble a v k ih => exact (SysFrame.store s _).trans (ih h)
  | getTime k ih =>
    obtain ⟨v, hv, h⟩ := h
    exact (SysFrame.tookTime s hv).trans (ih _ h)
  | choose k ih =>
    obtain ⟨n, h⟩ := h
    exact (SysFrame.tookChoice s).trans (ih _ h)

/-- Every outcome the relation allows keeps memory in canonical form. -/
theorem SysProg.Allows.memWf {p : SysProg} {s t : State} {e : Bool} (h : p.Allows s (.ok (t, e))) (hm : Memory.wf s.mem = true) :
    Memory.wf t.mem = true := by
  induction p generalizing s with
  | done b => cases h; exact hm
  | fault r => cases h
  | getReg i k ih => exact ih _ h hm
  | setReg i v k ih => exact ih h (by simpa using hm)
  | getWord a k ih =>
    simp only [SysProg.Allows] at h
    split at h
    · exact ih _ h hm
    · cases h
  | setWord a v k ih => exact ih h (Memory.wf_write4 a v hm)
  | getDouble a k ih =>
    simp only [SysProg.Allows] at h
    split at h
    · exact ih _ h hm
    · cases h
  | setDouble a v k ih => exact ih h (Memory.wf_write8 a v hm)
  | getTime k ih =>
    obtain ⟨v, hv, h⟩ := h
    exact ih _ h hm
  | choose k ih =>
    obtain ⟨n, h⟩ := h
    exact ih _ h hm

/-- The time handed out is at least every earlier one. -/
theorem State.lastTime_le_nextTime (s : State) : s.lastTime ≤ s.nextTime := by
  unfold State.nextTime
  split
  · assumption
  · exact BitVec.le_refl _

/-- The call the step makes is one the relation allows. -/
theorem SysProg.allows_run (p : SysProg) (s : State) : p.Allows s (p.run s) := by
  induction p generalizing s with
  | done b => rfl
  | fault r => rfl
  | getReg i k ih => exact ih _ _
  | setReg i v k ih => exact ih _
  | getWord a k ih =>
    simp only [SysProg.Allows, SysProg.run]
    cases Memory.read4 s.mem a with
    | ok v => exact ih _ _
    | error r => rfl
  | setWord a v k ih => exact ih _
  | getDouble a k ih =>
    simp only [SysProg.Allows, SysProg.run]
    cases Memory.read8 s.mem a with
    | ok v => exact ih _ _
    | error r => rfl
  | setDouble a v k ih => exact ih _
  | getTime k ih => exact ⟨_, s.lastTime_le_nextTime, ih _ _⟩
  | choose k ih => exact ⟨_, ih _ _⟩

theorem SysProg.run_frame {p : SysProg} {s t : State} {e : Bool} (h : p.run s = .ok (t, e)) : SysFrame s t :=
  SysProg.Allows.frame (h ▸ p.allows_run s)

theorem SysProg.run_memWf {p : SysProg} {s t : State} {e : Bool} (h : p.run s = .ok (t, e)) (hm : Memory.wf s.mem = true) :
    Memory.wf t.mem = true :=
  SysProg.Allows.memWf (h ▸ p.allows_run s) hm

/-- The tick is one of the outcomes the relation allows (40_clock_fetch.md R97). -/
theorem State.ticks_tick (s : State) (c : Cfg) : s.Ticks c (tick c s) := by
  unfold State.Ticks
  split
  · rename_i h
    simp only [Bool.and_eq_true, Bool.not_eq_eq_eq_not, Bool.not_true] at h
    refine ⟨_, SysProg.allows_run _ _, ?_⟩
    simp only [tick, wbStep, h.1, h.2, Bool.false_eq_true, if_false, if_true, handSyscall]
    cases resumeSyscall _ _ <;> rfl
  · rfl

/-- The reference services (46_reference_isa_fp.md R262): exit, time, or the fault of an unknown number. -/
theorem refSyscall_run (i : SysIn) (s : State) :
    (refSyscall i).run s =
      if s.x[2] = 10 then .ok (s, true)
      else if s.x[2] = 30 then
        .ok (((s.tookTime s.nextTime).writeGpr 4 (low32 s.nextTime)).writeGpr 5 (high32 s.nextTime), false)
      else .error (.unknownSyscall s.x[2]) := by
  have h2 : s.readGpr 2 = s.x[2] := rfl
  simp only [refSyscall, SysProg.run, h2]
  split
  · rfl
  · split <;> rfl

/-- `State.reset` is the reboot of the reference configuration with the empty image (70_reset_and_hazards.md R300; log entry 4). -/
theorem Cfg.reference_reboot : Cfg.reference.reboot (some []) = .ok State.reset := rfl

end Sys2Proof.Machine
end

