-- ==== Sys2Proof/Laws/Flow.lean ====
section
/-! SUPPORT. What one tick does to the flags and the four boundaries, stage by stage, as the invariants of the pipe need it
(41_decode_hazard.md R113 to R118; 42_execute_delay_slot.md R131 to R134; 40_clock_fetch.md R85, R89, R94). -/

namespace Sys2Proof.Machine

/-- What Writeback keeps. -/
theorem wbStep_keeps {c : Cfg} {s t : State} (h : wbStep c s = .ok t) :
    t.ifId = s.ifId ∧ t.idEx = s.idEx ∧ t.exMem = s.exMem ∧ t.memWb = s.memWb ∧ t.stall = s.stall ∧
    t.illegalPending = s.illegalPending ∧ t.bdPending = s.bdPending ∧ t.bdTaken = s.bdTaken ∧ t.bdTarget = s.bdTarget ∧
    t.nFetched = s.nFetched ∧ t.instrBudget = s.instrBudget ∧ t.fwdMode = s.fwdMode ∧
    t.syscallPending = (if !s.memWb.cur.isNop && s.memWb.cur.isSyscall then false else s.syscallPending) ∧
    ((!s.memWb.cur.isNop && s.memWb.cur.isSyscall) = false → t.pc = s.pc) := by
  rcases wbStep_cases h with ⟨hn, rfl⟩ | ⟨hn, hs, u, e, ho, rfl⟩ | ⟨hn, hs, hi, rfl⟩ | ⟨hn, hs, hi, rfl⟩
  · simp [*]
  · rw [(SysProg.run_frame ho).same]
    simp [*]
  all_goals simp [*]

/-- Memory: the register it hands on has the flags of the one it read. -/
theorem memStep_keeps {c : Cfg} {s t : State} (h : memStep c s = .ok t) :
    ∃ p m, memPass c.memop s.exMem.cur s.mem = .ok (p, m) ∧ t = (s.putMemWb p).withMem m ∧
      p.isNop = s.exMem.cur.isNop ∧ p.isSyscall = s.exMem.cur.isSyscall ∧ p.isIllegal = s.exMem.cur.isIllegal := by
  obtain ⟨p, m, hp, rfl⟩ := memStep_ok h
  refine ⟨p, m, hp, rfl, ?_⟩
  rcases memPass_cases hp with ⟨rfl, -, -⟩ | ⟨-, -, -, id, o, -, -, rfl, -⟩ <;> simp [PipeReg.withResult]


/-- A legal word of the reference is the word of an instruction, with its decode fields. -/
theorem refDecode_legal {w : Word} {d : DecodeInfo} (h : Cfg.reference.decode w = .legal d) :
    ∃ i, decode w = .ok i ∧ d = infoOf i w := by
  simp only [Cfg.reference, refDecode] at h
  split at h <;> simp_all

/-- What Execute keeps, when it consumes or sets the delay-slot controller, and where it leaves the program counter
(42_execute_delay_slot.md R131 to R134). -/
theorem exStep_keeps {c : Cfg} {s t : State} (h : exStep c s = .ok t) :
    t.ifId = s.ifId ∧ t.idEx = s.idEx ∧ t.exMem.cur = s.exMem.cur ∧ t.memWb = s.memWb ∧ t.stall = s.stall ∧
    t.syscallPending = s.syscallPending ∧ t.illegalPending = s.illegalPending ∧ t.nFetched = s.nFetched ∧
    t.instrBudget = s.instrBudget ∧ t.fwdMode = s.fwdMode ∧ t.mem = s.mem ∧ t.x = s.x ∧ t.f = s.f ∧ t.hi = s.hi ∧ t.lo = s.lo ∧
    t.exit = s.exit ∧ t.booted = s.booted ∧ t.fault = s.fault ∧ t.haltReason = s.haltReason ∧ t.nCycles = s.nCycles ∧
    t.exMem.nxt.isNop = s.idEx.cur.isNop ∧
    (s.idEx.cur.isNop = true → t.exMem.nxt = bubble) ∧
    (s.idEx.cur.isNop = false → t.exMem.nxt.isSyscall = s.idEx.cur.isSyscall ∧ t.exMem.nxt.isIllegal = s.idEx.cur.isIllegal) ∧
    (s.bdPending = true → t.bdPending = false →
      s.idEx.cur.isNop = false ∧ s.idEx.cur.isIllegal = false ∧ s.idEx.cur.isSyscall = false) ∧
    (s.bdPending = true → t.bdPending = true → s.idEx.cur.isNop = true ∨ s.idEx.cur.isIllegal = true) ∧
    (s.bdPending = false → t.bdPending = true →
      s.idEx.cur.isNop = false ∧ s.idEx.cur.isIllegal = false ∧ s.idEx.cur.isSyscall = false) ∧
    t.pc = (if s.bdPending && s.bdTaken && !t.bdPending then s.bdTarget else s.pc) := by
  rcases exStep_cases h with ⟨hn, rfl⟩ | ⟨hn, hi, rfl⟩ | ⟨hn, hi, hs, hb, rfl⟩ | ⟨hn, hi, hs, p, u, hp, rfl⟩
  · simp [hn]; cases s.bdPending <;> simp [bubble]
  · simp [hn, hi]; cases s.bdPending <;> simp
  · simp [hn, hi, hs, hb]
  · obtain ⟨out, -, hf, hb, rfl, rfl⟩ := execPass_cases hp
    cases hd : s.bdPending <;> simp [hd] at hb <;> cases hid : s.idEx.cur.aluId <;> simp [hn, hi, hs, executed, hd, hb]

/-- A commit that does not end the run. -/
theorem commit_ok {s : State} (h : s.commit.exit = false) : s.commit = s.latch.countCycle ∧ s.exit = false ∧
    (s.latch.countCycle.budgetReached && s.latch.countCycle.drained && !s.syscallPending) = false := by
  unfold State.commit State.budgetCheck at *
  split at h
  · simp [State.haltBudget] at h
  · rename_i hc
    refine ⟨?_, by simpa using h, by simpa using hc⟩
    rw [if_neg hc]

/-- A reached budget stays reached. -/
theorem budgetReached_mono {s t : State} (h1 : s.instrBudget = t.instrBudget) (h2 : s.nFetched ≤ t.nFetched)
    (h : s.budgetReached = true) :
    t.budgetReached = true := by
  unfold State.budgetReached at *; rw [h1] at h; split at h <;> simp_all; omega


/-- Decode and Fetch together, from the state Execute left. -/
theorem front_cases {c : Cfg} {s u t : State} (h4 : idStep c s = .ok u) (h5 : ifStep u = .ok t) :
    t.exMem = s.exMem ∧ t.memWb = s.memWb ∧ t.idEx.cur = s.idEx.cur ∧ t.ifId.cur = s.ifId.cur ∧
    t.bdPending = s.bdPending ∧ t.bdTaken = s.bdTaken ∧ t.bdTarget = s.bdTarget ∧ t.instrBudget = s.instrBudget ∧
    t.x = s.x ∧ t.f = s.f ∧ t.hi = s.hi ∧ t.lo = s.lo ∧ t.mem = s.mem ∧ t.fwdMode = s.fwdMode ∧ t.exit = s.exit ∧
    t.stall = u.stall ∧ t.syscallPending = u.syscallPending ∧ t.illegalPending = u.illegalPending ∧ t.idEx = u.idEx ∧
    ((s.ifId.cur.isNop = true ∧ u.idEx.nxt = bubble ∧ u.stall = false ∧ u.syscallPending = s.syscallPending ∧
        u.illegalPending = s.illegalPending) ∨
     (s.ifId.cur.isNop = false ∧ c.decode s.ifId.cur.ins = .illegal ∧ u.idEx.nxt = illegalReg s.ifId.cur ∧ u.stall = false ∧
        u.syscallPending = s.syscallPending ∧ u.illegalPending = true) ∨
     (s.ifId.cur.isNop = false ∧ ∃ d, c.decode s.ifId.cur.ins = .legal d ∧ d.contract = true ∧
        u.illegalPending = s.illegalPending ∧
        ((stallDecision s.fwdMode d s.idEx.cur s.exMem.cur = true ∧ u.idEx.nxt = bubble ∧ u.stall = true ∧
            u.syscallPending = s.syscallPending) ∨
         (stallDecision s.fwdMode d s.idEx.cur s.exMem.cur = false ∧ u.stall = false ∧
            u.idEx.nxt = decoded s.ifId.cur d (s.readOp d.fpDouble d.src1) (s.readOp d.fpDouble d.src2)
              (selectSrc s.fwdMode s.idEx.cur s.exMem.cur d.src1).2 (selectSrc s.fwdMode s.idEx.cur s.exMem.cur d.src2).2 ∧
            u.syscallPending = (d.isSyscall || s.syscallPending))))) ∧
    (((!u.stall && !u.syscallPending && !u.illegalPending && !s.bdPending && !s.budgetReached) = true ∧
        (∃ w, fetchWord s.mem s.pc = .ok w ∧ t.ifId.nxt = fetched s.pc w) ∧ t.pc = s.pc + 4 ∧ t.nFetched = s.nFetched + 1) ∨
     ((!u.stall && !u.syscallPending && !u.illegalPending && !s.bdPending && !s.budgetReached) = false ∧
        t.pc = s.pc ∧ t.nFetched = s.nFetched ∧ t.ifId.nxt = if u.stall then s.ifId.cur else bubble)) := by
  have hb : ∀ v : State, v.instrBudget = s.instrBudget → v.nFetched = s.nFetched → v.budgetReached = s.budgetReached := by
    intro v h1 h2; simp [State.budgetReached, h1, h2]
  rcases idStep_cases h4 with ⟨hn, rfl⟩ | ⟨hn, hd, rfl⟩ | ⟨hn, d, hd, hk, ⟨hst, rfl⟩ | ⟨hst, rfl⟩⟩ <;>
  rcases ifStep_cases h5 with ⟨hf, w, hw, rfl⟩ | ⟨hf, hs, rfl⟩ | ⟨hf, hs, rfl⟩ <;>
  unfold State.fetchEn at hf <;> rw [hb _ (by simp) (by simp)] at hf <;> simp at hf <;>
  first | (simp [*] at *; done) | (simp [*] at *; simp [*]) | (simp [*] at *; assumption)

end Sys2Proof.Machine
end

