-- ==== Sys2Proof/Laws/PerInstr.lean ====
section
/-! SUPPORT. Per-instruction facts of the family `Contract`: the decode fields the reference gives a well-formed instruction meet
the decoder contract (30_encoding.md R65) and name the instruction's own handlers (45_reference_isa_int.md R159). -/

namespace Sys2Proof.Laws.Contract

open Sys2Proof Sys2Proof.Machine

/-- In every word: the decode fields meet 30_encoding.md R65, a memory operation has the instruction's own memory handler, and every
instruction but SYSCALL has its own ALU handler. -/
def Statement (i : Instr) : Prop :=
  i.wellFormed = true → ∀ w : Word, (infoOf i w).contract = true ∧
    ((infoOf i w).memOp = true → (infoOf i w).memId = some i.mnemonic) ∧
    (i ≠ .syscall → (infoOf i w).aluId = some i.mnemonic)

theorem sll (rd rt shamt : RegIdx) : Statement (.sll rd rt shamt) := fun _ _ => ⟨rfl, nofun, fun _ => rfl⟩
theorem srl (rd rt shamt : RegIdx) : Statement (.srl rd rt shamt) := fun _ _ => ⟨rfl, nofun, fun _ => rfl⟩
theorem sra (rd rt shamt : RegIdx) : Statement (.sra rd rt shamt) := fun _ _ => ⟨rfl, nofun, fun _ => rfl⟩
theorem sllv (rd rt rs : RegIdx) : Statement (.sllv rd rt rs) := fun _ _ => ⟨rfl, nofun, fun _ => rfl⟩
theorem srlv (rd rt rs : RegIdx) : Statement (.srlv rd rt rs) := fun _ _ => ⟨rfl, nofun, fun _ => rfl⟩
theorem srav (rd rt rs : RegIdx) : Statement (.srav rd rt rs) := fun _ _ => ⟨rfl, nofun, fun _ => rfl⟩
theorem add (rd rs rt : RegIdx) : Statement (.add rd rs rt) := fun _ _ => ⟨rfl, nofun, fun _ => rfl⟩
theorem addu (rd rs rt : RegIdx) : Statement (.addu rd rs rt) := fun _ _ => ⟨rfl, nofun, fun _ => rfl⟩
theorem sub (rd rs rt : RegIdx) : Statement (.sub rd rs rt) := fun _ _ => ⟨rfl, nofun, fun _ => rfl⟩
theorem subu (rd rs rt : RegIdx) : Statement (.subu rd rs rt) := fun _ _ => ⟨rfl, nofun, fun _ => rfl⟩
theorem and (rd rs rt : RegIdx) : Statement (.and rd rs rt) := fun _ _ => ⟨rfl, nofun, fun _ => rfl⟩
theorem or (rd rs rt : RegIdx) : Statement (.or rd rs rt) := fun _ _ => ⟨rfl, nofun, fun _ => rfl⟩
theorem xor (rd rs rt : RegIdx) : Statement (.xor rd rs rt) := fun _ _ => ⟨rfl, nofun, fun _ => rfl⟩
theorem nor (rd rs rt : RegIdx) : Statement (.nor rd rs rt) := fun _ _ => ⟨rfl, nofun, fun _ => rfl⟩
theorem slt (rd rs rt : RegIdx) : Statement (.slt rd rs rt) := fun _ _ => ⟨rfl, nofun, fun _ => rfl⟩
theorem sltu (rd rs rt : RegIdx) : Statement (.sltu rd rs rt) := fun _ _ => ⟨rfl, nofun, fun _ => rfl⟩
theorem mfhi (rd : RegIdx) : Statement (.mfhi rd) := fun _ _ => ⟨rfl, nofun, fun _ => rfl⟩
theorem mthi (rs : RegIdx) : Statement (.mthi rs) := fun _ _ => ⟨rfl, nofun, fun _ => rfl⟩
theorem mflo (rd : RegIdx) : Statement (.mflo rd) := fun _ _ => ⟨rfl, nofun, fun _ => rfl⟩
theorem mtlo (rs : RegIdx) : Statement (.mtlo rs) := fun _ _ => ⟨rfl, nofun, fun _ => rfl⟩
theorem mult (rs rt : RegIdx) : Statement (.mult rs rt) := fun _ _ => ⟨rfl, nofun, fun _ => rfl⟩
theorem multu (rs rt : RegIdx) : Statement (.multu rs rt) := fun _ _ => ⟨rfl, nofun, fun _ => rfl⟩
theorem div (rs rt : RegIdx) : Statement (.div rs rt) := fun _ _ => ⟨rfl, nofun, fun _ => rfl⟩
theorem divu (rs rt : RegIdx) : Statement (.divu rs rt) := fun _ _ => ⟨rfl, nofun, fun _ => rfl⟩
theorem addi (rt rs : RegIdx) (imm : BitVec 16) : Statement (.addi rt rs imm) := fun _ _ => ⟨rfl, nofun, fun _ => rfl⟩
theorem addiu (rt rs : RegIdx) (imm : BitVec 16) : Statement (.addiu rt rs imm) := fun _ _ => ⟨rfl, nofun, fun _ => rfl⟩
theorem slti (rt rs : RegIdx) (imm : BitVec 16) : Statement (.slti rt rs imm) := fun _ _ => ⟨rfl, nofun, fun _ => rfl⟩
theorem sltiu (rt rs : RegIdx) (imm : BitVec 16) : Statement (.sltiu rt rs imm) := fun _ _ => ⟨rfl, nofun, fun _ => rfl⟩
theorem andi (rt rs : RegIdx) (imm : BitVec 16) : Statement (.andi rt rs imm) := fun _ _ => ⟨rfl, nofun, fun _ => rfl⟩
theorem ori (rt rs : RegIdx) (imm : BitVec 16) : Statement (.ori rt rs imm) := fun _ _ => ⟨rfl, nofun, fun _ => rfl⟩
theorem xori (rt rs : RegIdx) (imm : BitVec 16) : Statement (.xori rt rs imm) := fun _ _ => ⟨rfl, nofun, fun _ => rfl⟩
theorem lui (rt : RegIdx) (imm : BitVec 16) : Statement (.lui rt imm) := fun _ _ => ⟨rfl, nofun, fun _ => rfl⟩
theorem j (target : BitVec 26) : Statement (.j target) := fun _ _ => ⟨rfl, nofun, fun _ => rfl⟩
theorem jal (target : BitVec 26) : Statement (.jal target) := fun _ _ => ⟨rfl, nofun, fun _ => rfl⟩
theorem jr (rs : RegIdx) : Statement (.jr rs) := fun _ _ => ⟨rfl, nofun, fun _ => rfl⟩
theorem jalr (rd rs : RegIdx) : Statement (.jalr rd rs) := fun _ _ => ⟨rfl, nofun, fun _ => rfl⟩
theorem beq (rs rt : RegIdx) (imm : BitVec 16) : Statement (.beq rs rt imm) := fun _ _ => ⟨rfl, nofun, fun _ => rfl⟩
theorem bne (rs rt : RegIdx) (imm : BitVec 16) : Statement (.bne rs rt imm) := fun _ _ => ⟨rfl, nofun, fun _ => rfl⟩
theorem blez (rs : RegIdx) (imm : BitVec 16) : Statement (.blez rs imm) := fun _ _ => ⟨rfl, nofun, fun _ => rfl⟩
theorem bgtz (rs : RegIdx) (imm : BitVec 16) : Statement (.bgtz rs imm) := fun _ _ => ⟨rfl, nofun, fun _ => rfl⟩
theorem bltz (rs : RegIdx) (imm : BitVec 16) : Statement (.bltz rs imm) := fun _ _ => ⟨rfl, nofun, fun _ => rfl⟩
theorem bgez (rs : RegIdx) (imm : BitVec 16) : Statement (.bgez rs imm) := fun _ _ => ⟨rfl, nofun, fun _ => rfl⟩
theorem bltzal (rs : RegIdx) (imm : BitVec 16) : Statement (.bltzal rs imm) := fun _ _ => ⟨rfl, nofun, fun _ => rfl⟩
theorem bgezal (rs : RegIdx) (imm : BitVec 16) : Statement (.bgezal rs imm) := fun _ _ => ⟨rfl, nofun, fun _ => rfl⟩
theorem syscall : Statement .syscall := fun _ _ => ⟨rfl, nofun, fun h => absurd rfl h⟩
theorem lb (rt rs : RegIdx) (imm : BitVec 16) : Statement (.lb rt rs imm) := fun _ _ => ⟨rfl, fun _ => rfl, fun _ => rfl⟩
theorem lbu (rt rs : RegIdx) (imm : BitVec 16) : Statement (.lbu rt rs imm) := fun _ _ => ⟨rfl, fun _ => rfl, fun _ => rfl⟩
theorem lh (rt rs : RegIdx) (imm : BitVec 16) : Statement (.lh rt rs imm) := fun _ _ => ⟨rfl, fun _ => rfl, fun _ => rfl⟩
theorem lhu (rt rs : RegIdx) (imm : BitVec 16) : Statement (.lhu rt rs imm) := fun _ _ => ⟨rfl, fun _ => rfl, fun _ => rfl⟩
theorem lw (rt rs : RegIdx) (imm : BitVec 16) : Statement (.lw rt rs imm) := fun _ _ => ⟨rfl, fun _ => rfl, fun _ => rfl⟩
theorem lwl (rt rs : RegIdx) (imm : BitVec 16) : Statement (.lwl rt rs imm) := fun _ _ => ⟨rfl, fun _ => rfl, fun _ => rfl⟩
theorem lwr (rt rs : RegIdx) (imm : BitVec 16) : Statement (.lwr rt rs imm) := fun _ _ => ⟨rfl, fun _ => rfl, fun _ => rfl⟩
theorem sb (rt rs : RegIdx) (imm : BitVec 16) : Statement (.sb rt rs imm) := fun _ _ => ⟨rfl, fun _ => rfl, fun _ => rfl⟩
theorem sh (rt rs : RegIdx) (imm : BitVec 16) : Statement (.sh rt rs imm) := fun _ _ => ⟨rfl, fun _ => rfl, fun _ => rfl⟩
theorem sw (rt rs : RegIdx) (imm : BitVec 16) : Statement (.sw rt rs imm) := fun _ _ => ⟨rfl, fun _ => rfl, fun _ => rfl⟩
theorem swl (rt rs : RegIdx) (imm : BitVec 16) : Statement (.swl rt rs imm) := fun _ _ => ⟨rfl, fun _ => rfl, fun _ => rfl⟩
theorem swr (rt rs : RegIdx) (imm : BitVec 16) : Statement (.swr rt rs imm) := fun _ _ => ⟨rfl, fun _ => rfl, fun _ => rfl⟩
theorem mfc1 (rt fs : RegIdx) : Statement (.mfc1 rt fs) := fun _ _ => ⟨rfl, nofun, fun _ => rfl⟩
theorem mtc1 (rt fs : RegIdx) : Statement (.mtc1 rt fs) := fun _ _ => ⟨rfl, nofun, fun _ => rfl⟩
theorem addS (fd fs ft : RegIdx) : Statement (.addS fd fs ft) := fun _ _ => ⟨rfl, nofun, fun _ => rfl⟩
theorem subS (fd fs ft : RegIdx) : Statement (.subS fd fs ft) := fun _ _ => ⟨rfl, nofun, fun _ => rfl⟩
theorem mulS (fd fs ft : RegIdx) : Statement (.mulS fd fs ft) := fun _ _ => ⟨rfl, nofun, fun _ => rfl⟩
theorem divS (fd fs ft : RegIdx) : Statement (.divS fd fs ft) := fun _ _ => ⟨rfl, nofun, fun _ => rfl⟩
theorem movS (fd fs : RegIdx) : Statement (.movS fd fs) := fun _ _ => ⟨rfl, nofun, fun _ => rfl⟩
theorem addD (fd fs ft : RegIdx) : Statement (.addD fd fs ft) := by
  intro h w
  simp only [Instr.wellFormed, Bool.and_eq_true] at h
  refine ⟨?_, nofun, fun _ => rfl⟩
  simp [infoOf, infoAddD, infoFloat, infoDefaults, DecodeInfo.contract, SrcRef.evenIfFpr, h]
theorem subD (fd fs ft : RegIdx) : Statement (.subD fd fs ft) := by
  intro h w
  simp only [Instr.wellFormed, Bool.and_eq_true] at h
  refine ⟨?_, nofun, fun _ => rfl⟩
  simp [infoOf, infoSubD, infoFloat, infoDefaults, DecodeInfo.contract, SrcRef.evenIfFpr, h]
theorem mulD (fd fs ft : RegIdx) : Statement (.mulD fd fs ft) := by
  intro h w
  simp only [Instr.wellFormed, Bool.and_eq_true] at h
  refine ⟨?_, nofun, fun _ => rfl⟩
  simp [infoOf, infoMulD, infoFloat, infoDefaults, DecodeInfo.contract, SrcRef.evenIfFpr, h]
theorem divD (fd fs ft : RegIdx) : Statement (.divD fd fs ft) := by
  intro h w
  simp only [Instr.wellFormed, Bool.and_eq_true] at h
  refine ⟨?_, nofun, fun _ => rfl⟩
  simp [infoOf, infoDivD, infoFloat, infoDefaults, DecodeInfo.contract, SrcRef.evenIfFpr, h]
theorem movD (fd fs : RegIdx) : Statement (.movD fd fs) := by
  intro h w
  simp only [Instr.wellFormed, Bool.and_eq_true] at h
  refine ⟨?_, nofun, fun _ => rfl⟩
  simp [infoOf, infoMovD, infoFloatMove, infoDefaults, DecodeInfo.contract, SrcRef.evenIfFpr, h]
theorem lwc1 (ft rs : RegIdx) (imm : BitVec 16) : Statement (.lwc1 ft rs imm) := fun _ _ => ⟨rfl, fun _ => rfl, fun _ => rfl⟩
theorem swc1 (ft rs : RegIdx) (imm : BitVec 16) : Statement (.swc1 ft rs imm) := fun _ _ => ⟨rfl, fun _ => rfl, fun _ => rfl⟩

end Sys2Proof.Laws.Contract
end

