-- ==== Sys2Proof/Laws/Solo.lean ====
section
/-! SUPPORT. What the passage of one instruction alone can do, said once for `runAlone` and `runSyscallAlone`, with the lemmas of
the operand forms they read (30_encoding.md R79; 41_decode_hazard.md R108). -/

namespace Sys2Proof.Machine

/-! ## Operand values -/

@[simp] theorem low32_zext64 (v : Word) : low32 (zext64 v) = v := by
  apply BitVec.eq_of_toNat_eq
  have := v.isLt
  simp only [low32, zext64, BitVec.extractLsb'_toNat, BitVec.toNat_setWidth, Nat.shiftRight_zero]
  omega

@[simp] theorem low32_pair (h l : Word) : low32 (pair h l) = l := by
  apply BitVec.eq_of_toNat_eq
  have := l.isLt
  simp only [low32, pair, BitVec.extractLsb'_toNat, toNat_append_eq, Nat.shiftRight_zero]
  omega

@[simp] theorem high32_pair (h l : Word) : high32 (pair h l) = h := by
  apply BitVec.eq_of_toNat_eq
  have := l.isLt
  have := h.isLt
  simp only [high32, pair, BitVec.extractLsb'_toNat, toNat_append_eq, Nat.shiftRight_eq_div_pow]
  omega

@[simp] theorem State.readOp_none (s : State) (dbl : Bool) : s.readOp dbl .none = 0 := rfl
@[simp] theorem State.readOp_gpr (s : State) (dbl : Bool) (i : RegIdx) : s.readOp dbl (.gpr i) = zext64 (s.readGpr i) := rfl
@[simp] theorem State.readOp_single (s : State) (i : RegIdx) : s.readOp false (.fpr i) = zext64 (s.readFpr i) := rfl
@[simp] theorem State.readOp_double (s : State) (i : RegIdx) : s.readOp true (.fpr i) = s.readFprPair i := rfl

@[simp] theorem State.readGpr_zero (s : State) : s.readGpr 0 = 0 := rfl

theorem State.readGpr_of_ne {s : State} {i : RegIdx} (h : i ≠ 0) : s.readGpr i = s.x[i] := by simp [State.readGpr, h]

/-! ## The passage -/

/-- Execute's part of an instruction whose handler neither faults nor breaks the delay-slot rule. -/
theorem execPass_ok {alu : Mnemonic → AluIn → AluOut} {i : PipeReg} {v1 v2 : DWord} {s : State} {id : Mnemonic} {out : AluOut}
    (ha : i.aluId = some id) (ho : alu id (aluInput i v1 v2 s.hi s.lo) = out) (hf : out.fault = none)
    (hb : (s.bdPending && out.bd) = false) :
    execPass alu i v1 v2 s = .ok (executed i v1 v2 out, (s.bump i.cat).resolveDelaySlot out) := by
  simp only [execPass, aluCall, ha, ho, hf, hb, Option.isSome_some, if_true, Bool.false_eq_true, if_false]

/-- Execute's part of an instruction whose handler faults. -/
theorem execPass_fault {alu : Mnemonic → AluIn → AluOut} {i : PipeReg} {v1 v2 : DWord} {s : State} {id : Mnemonic} {r : Fault}
    (ha : i.aluId = some id) (ho : (alu id (aluInput i v1 v2 s.hi s.lo)).fault = some r) :
    execPass alu i v1 v2 s = .error r := by
  simp only [execPass, aluCall, ha, ho]

/-- A register that is no memory operation passes through the Memory stage. -/
theorem memPass_through {memop : Mnemonic → MemIn → Memory → Except Fault MemOut} {p : PipeReg} {m : Memory}
    (h : p.memOp = false) : memPass memop p m = .ok (p, m) := by
  simp only [memPass, h, Bool.and_false, Bool.false_and, Bool.false_eq_true, if_false]

/-- A memory operation whose handler answers. -/
theorem memPass_ok {memop : Mnemonic → MemIn → Memory → Except Fault MemOut} {p : PipeReg} {m : Memory} {id : Mnemonic}
    {o : MemOut} (hn : p.isNop = false) (hm : p.memOp = true) (hi : p.isIllegal = false) (hid : p.memId = some id)
    (ho : memop id (memInput p) m = .ok o) : memPass memop p m = .ok (p.withResult o.resLo o.resHi, o.mem) := by
  simp only [memPass, hn, hm, hi, hid, ho, Bool.not_false, Bool.and_self, if_true]

/-- A memory operation whose handler faults. -/
theorem memPass_fault {memop : Mnemonic → MemIn → Memory → Except Fault MemOut} {p : PipeReg} {m : Memory} {id : Mnemonic}
    {r : Fault} (hn : p.isNop = false) (hm : p.memOp = true) (hi : p.isIllegal = false) (hid : p.memId = some id)
    (ho : memop id (memInput p) m = .error r) : memPass memop p m = .error r := by
  simp only [memPass, hn, hm, hi, hid, ho, Bool.not_false, Bool.and_self, if_true]

@[simp] theorem soloRegister_cat (s : State) (w : Word) (d : DecodeInfo) : (soloRegister s w d).cat = d.cat := rfl

section
variable {w : Word} {d : DecodeInfo} {alu : AluIn → AluOut} {mem : MemIn → Memory → Except Fault MemOut} {s : State}
  {out : AluOut}

/-- An instruction with no memory operation: its handler's result is committed after the delay-slot controller has had it. -/
theorem runAlone_register (hm : d.memOp = false) (ha : d.aluId.isSome = true)
    (ho : alu (aluInput (soloRegister s w d) (s.readOp d.fpDouble d.src1) (s.readOp d.fpDouble d.src2) s.hi s.lo) = out)
    (hf : out.fault = none) (hb : (s.bdPending && out.bd) = false) :
    runAlone w d alu mem s = .next
      (State.commitReg (((s.setPc (s.pc + 4)).bump d.cat).resolveDelaySlot out)
        (executed (soloRegister s w d) (s.readOp d.fpDouble d.src1) (s.readOp d.fpDouble d.src2) out)).forceX0 := by
  obtain ⟨id, hid⟩ := Option.isSome_iff_exists.mp ha
  have he := execPass_ok (alu := fun _ => alu) (i := soloRegister s w d) (s := (s.setPc (s.pc + 4))) (id := id) hid ho hf hb
  have hp := memPass_through (memop := fun _ => mem) (m := s.mem)
    (p := executed (soloRegister s w d) (s.readOp d.fpDouble d.src1) (s.readOp d.fpDouble d.src2) out) hm
  have hx : ((s.setPc (s.pc + 4)).bump d.cat |>.resolveDelaySlot out).mem = s.mem := by simp
  have hw : ∀ t : State, t.mem = s.mem → t.withMem s.mem = t := fun t h => by rw [← h]; rfl
  simp only [runAlone, he, finishAlone, hx, hp, soloRegister_cat, hw _ hx]

/-- A memory operation that takes no branch: the handler's results are committed and its memory kept. -/
theorem runAlone_memory {o : MemOut} (hm : d.memOp = true) (ha : d.aluId.isSome = true) (hi : d.memId.isSome = true)
    (ho : alu (aluInput (soloRegister s w d) (s.readOp d.fpDouble d.src1) (s.readOp d.fpDouble d.src2) s.hi s.lo) = out)
    (hf : out.fault = none) (hb : out.bd = false)
    (hmem : mem (memInput (executed (soloRegister s w d) (s.readOp d.fpDouble d.src1) (s.readOp d.fpDouble d.src2) out)) s.mem
      = .ok o) :
    runAlone w d alu mem s = .next
      (State.commitReg (((s.setPc (s.pc + 4)).bump d.cat |>.resolveDelaySlot out).withMem o.mem)
        ((executed (soloRegister s w d) (s.readOp d.fpDouble d.src1) (s.readOp d.fpDouble d.src2) out).withResult
          o.resLo o.resHi)).forceX0 := by
  obtain ⟨id, hid⟩ := Option.isSome_iff_exists.mp ha
  obtain ⟨md, hmd⟩ := Option.isSome_iff_exists.mp hi
  have he := execPass_ok (alu := fun _ => alu) (i := soloRegister s w d) (s := (s.setPc (s.pc + 4))) (id := id) hid ho hf
    (by simp [hb])
  have hp := memPass_ok (memop := fun _ => mem)
    (p := executed (soloRegister s w d) (s.readOp d.fpDouble d.src1) (s.readOp d.fpDouble d.src2) out) (id := md)
    rfl hm rfl hmd hmem
  have hx : ((s.setPc (s.pc + 4)).bump d.cat |>.resolveDelaySlot out).mem = s.mem := by simp
  simp only [runAlone, he, finishAlone, soloRegister_cat, hx, hp]

/-- A memory operation whose handler faults. -/
theorem runAlone_memory_fault {r : Fault} (hm : d.memOp = true) (ha : d.aluId.isSome = true) (hi : d.memId.isSome = true)
    (ho : alu (aluInput (soloRegister s w d) (s.readOp d.fpDouble d.src1) (s.readOp d.fpDouble d.src2) s.hi s.lo) = out)
    (hf : out.fault = none) (hb : out.bd = false)
    (hmem : mem (memInput (executed (soloRegister s w d) (s.readOp d.fpDouble d.src1) (s.readOp d.fpDouble d.src2) out)) s.mem
      = .error r) :
    runAlone w d alu mem s = .fault r := by
  obtain ⟨id, hid⟩ := Option.isSome_iff_exists.mp ha
  obtain ⟨md, hmd⟩ := Option.isSome_iff_exists.mp hi
  have he := execPass_ok (alu := fun _ => alu) (i := soloRegister s w d) (s := (s.setPc (s.pc + 4))) (id := id) hid ho hf
    (by simp [hb])
  have hp := memPass_fault (memop := fun _ => mem)
    (p := executed (soloRegister s w d) (s.readOp d.fpDouble d.src1) (s.readOp d.fpDouble d.src2) out) (id := md)
    rfl hm rfl hmd hmem
  have hx : ((s.setPc (s.pc + 4)).bump d.cat |>.resolveDelaySlot out).mem = s.mem := by simp
  simp only [runAlone, he, finishAlone, soloRegister_cat, hx, hp]

/-- An instruction whose ALU handler faults. -/
theorem runAlone_alu_fault {r : Fault} (ha : d.aluId.isSome = true)
    (ho : (alu (aluInput (soloRegister s w d) (s.readOp d.fpDouble d.src1) (s.readOp d.fpDouble d.src2) s.hi s.lo)).fault
      = some r) :
    runAlone w d alu mem s = .fault r := by
  obtain ⟨id, hid⟩ := Option.isSome_iff_exists.mp ha
  have he := execPass_fault (alu := fun _ => alu) (i := soloRegister s w d) (s := (s.setPc (s.pc + 4))) (id := id) hid ho
  simp only [runAlone, he]

/-- A control instruction in a delay slot. -/
theorem runAlone_delay_slot_fault (ha : d.aluId.isSome = true)
    (ho : alu (aluInput (soloRegister s w d) (s.readOp d.fpDouble d.src1) (s.readOp d.fpDouble d.src2) s.hi s.lo) = out)
    (hf : out.fault = none) (hb : (s.bdPending && out.bd) = true) :
    runAlone w d alu mem s = .fault (.controlInDelaySlot s.pc) := by
  obtain ⟨id, hid⟩ := Option.isSome_iff_exists.mp ha
  have he : execPass (fun _ => alu) (soloRegister s w d) (s.readOp d.fpDouble d.src1) (s.readOp d.fpDouble d.src2)
      (s.setPc (s.pc + 4)) = .error (.controlInDelaySlot s.pc) := by
    have h1 : (soloRegister s w d).aluId = some id := hid
    have h4 : (soloRegister s w d).pc = s.pc := rfl
    simp only [execPass, aluCall, h1, State.setPc_hi, State.setPc_lo, State.setPc_bdPending, ho, hf, hb, h4, if_true]
  simp only [runAlone, he]

end

/-- A system call outside a delay slot: the collaborator's answer, and `x[0]` cleared. -/
theorem runSyscallAlone_ok {w : Word} {d : DecodeInfo} {sys : SysIn → SysProg} {s u : State} {e : Bool}
    (hb : s.bdPending = false)
    (ho : (sys { reg := soloRegister s w d }).run s = .ok (u, e)) :
    runSyscallAlone w d sys s = .next (u.afterSyscall (soloRegister s w d) e).forceX0 := by
  simp only [runSyscallAlone, handSyscall, resumeSyscall, hb, ho, Bool.false_eq_true, if_false]

end Sys2Proof.Machine
end

