-- ==== Sys2Proof/Tests/Slice0.lean ====
section
/-! SUPPORT. The model's own tests. Expected values come from the spec: the vectors of 95_test_vectors.md (T-…) and the examples of
the rules. The words of the decode tests are written out from the formats of 30_encoding.md R77 and the fixed fields of
spec/opcode_table.json, every don't-care bit set to 1. The last part shows states that meet the hypotheses of the obligations. -/

namespace Sys2Proof.Tests

open Sys2Proof Sys2Proof.Machine

/-! ## Small states and views of an outcome -/

/-- Memory of the T-LD and T-ST vectors (95_test_vectors.md): bytes at 0x1000 to 0x1007. -/
def data : Memory :=
  [(0x1000, 0x11), (0x1001, 0x22), (0x1002, 0x33), (0x1003, 0x44), (0x1004, 0x80), (0x1005, 0x01), (0x1006, 0xFF), (0x1007, 0x7F)]

/-- The reset state, whose pc is 0x400, with the listed general registers. -/
def regs (l : List (RegIdx × Word)) : State := { State.reset with x := l.foldl (fun v c => v.set c.1 c.2) State.reset.x }

/-- The same with `data` in memory. -/
def mems (l : List (RegIdx × Word)) : State := (regs l).withMem data

/-- The reset state with the listed floating-point words. -/
def fregs (l : List (RegIdx × Word)) : State := { State.reset with f := l.foldl (fun v c => v.set c.1 c.2) State.reset.f }

/-- What a test looks at in an outcome. -/
def view {α : Type} (f : State → α) : Host.Outcome State Fault Refusal → Option α
  | .next t => some (f t)
  | _ => none

def gprOf (o : Host.Outcome State Fault Refusal) (r : RegIdx) : Option Word := view (fun t => t.x[r]) o
def fprOf (o : Host.Outcome State Fault Refusal) (r : RegIdx) : Option Word := view (fun t => t.f[r]) o
def hiLoOf : Host.Outcome State Fault Refusal → Option (Word × Word) := view fun t => (t.hi, t.lo)
def branchOf : Host.Outcome State Fault Refusal → Option (Bool × Bool × Word) := view fun t => (t.bdPending, t.bdTaken, t.bdTarget)
def haltOf : Host.Outcome State Fault Refusal → Option (Option HaltReason) := view fun t => t.haltReason

def faultOf : Host.Outcome State Fault Refusal → Option Fault
  | .fault r => some r
  | _ => none

def bytesOf : Host.Outcome State Fault Refusal → List (Option Byte)
  | .next t => [Memory.byte? t.mem 0x1000, Memory.byte? t.mem 0x1001, Memory.byte? t.mem 0x1002, Memory.byte? t.mem 0x1003]
  | _ => []

/-! ## Well-formedness: the one check, at each register it looks at (46_reference_isa_fp.md R255) -/

theorem test_wellFormed_refuses_odd_registers :
    [Instr.addD 1 2 4, .addD 2 1 4, .addD 2 4 1, .subD 31 2 4, .subD 2 31 4, .subD 2 4 31, .mulD 3 2 4, .mulD 2 3 4, .mulD 2 4 3,
     .divD 5 2 4, .divD 2 5 4, .divD 2 4 5, .movD 7 2, .movD 2 7].all (fun i => !i.wellFormed) = true := by decide

theorem test_wellFormed_accepts : [Instr.addD 0 2 30, .movD 30 0, .addS 1 3 5, .sll 31 31 31].all Instr.wellFormed = true := by decide

/-! ## Decoding, a word for every constructor -/

theorem test_decode_shift :
  decode 0b000000_11111_10010_10101_00110_000000 = .ok (.sll 21 18 6) ∧
  decode 0b000000_11111_10010_10101_00110_000010 = .ok (.srl 21 18 6) ∧
  decode 0b000000_11111_10010_10101_00110_000011 = .ok (.sra 21 18 6) ∧
  decode 0b000000_01001_10010_10101_11111_000100 = .ok (.sllv 21 18 9) ∧
  decode 0b000000_01001_10010_10101_11111_000110 = .ok (.srlv 21 18 9) ∧
  decode 0b000000_01001_10010_10101_11111_000111 = .ok (.srav 21 18 9) := by decide

theorem test_decode_threeRegister :
  decode 0b000000_01001_10010_10101_11111_100000 = .ok (.add 21 9 18) ∧
  decode 0b000000_01001_10010_10101_11111_100001 = .ok (.addu 21 9 18) ∧
  decode 0b000000_01001_10010_10101_11111_100010 = .ok (.sub 21 9 18) ∧
  decode 0b000000_01001_10010_10101_11111_100011 = .ok (.subu 21 9 18) ∧
  decode 0b000000_01001_10010_10101_11111_100100 = .ok (.and 21 9 18) ∧
  decode 0b000000_01001_10010_10101_11111_100101 = .ok (.or 21 9 18) ∧
  decode 0b000000_01001_10010_10101_11111_100110 = .ok (.xor 21 9 18) ∧
  decode 0b000000_01001_10010_10101_11111_100111 = .ok (.nor 21 9 18) ∧
  decode 0b000000_01001_10010_10101_11111_101010 = .ok (.slt 21 9 18) ∧
  decode 0b000000_01001_10010_10101_11111_101011 = .ok (.sltu 21 9 18) := by decide

theorem test_decode_hiLo :
  decode 0b000000_11111_11111_10101_11111_010000 = .ok (.mfhi 21) ∧
  decode 0b000000_01001_11111_11111_11111_010001 = .ok (.mthi 9) ∧
  decode 0b000000_11111_11111_10101_11111_010010 = .ok (.mflo 21) ∧
  decode 0b000000_01001_11111_11111_11111_010011 = .ok (.mtlo 9) ∧
  decode 0b000000_01001_10010_11111_11111_011000 = .ok (.mult 9 18) ∧
  decode 0b000000_01001_10010_11111_11111_011001 = .ok (.multu 9 18) ∧
  decode 0b000000_01001_10010_11111_11111_011010 = .ok (.div 9 18) ∧
  decode 0b000000_01001_10010_11111_11111_011011 = .ok (.divu 9 18) := by decide

theorem test_decode_immediate :
  decode 0b001000_01001_10010_1000010000100001 = .ok (.addi 18 9 0x8421) ∧
  decode 0b001001_01001_10010_1000010000100001 = .ok (.addiu 18 9 0x8421) ∧
  decode 0b001010_01001_10010_1000010000100001 = .ok (.slti 18 9 0x8421) ∧
  decode 0b001011_01001_10010_1000010000100001 = .ok (.sltiu 18 9 0x8421) ∧
  decode 0b001100_01001_10010_1000010000100001 = .ok (.andi 18 9 0x8421) ∧
  decode 0b001101_01001_10010_1000010000100001 = .ok (.ori 18 9 0x8421) ∧
  decode 0b001110_01001_10010_1000010000100001 = .ok (.xori 18 9 0x8421) ∧
  decode 0b001111_11111_10010_1000010000100001 = .ok (.lui 18 0x8421) := by decide

theorem test_decode_control :
  decode 0b000010_10101010111100110111101111 = .ok (.j 0x2ABCDEF) ∧
  decode 0b000011_10101010111100110111101111 = .ok (.jal 0x2ABCDEF) ∧
  decode 0b000000_01001_11111_11111_11111_001000 = .ok (.jr 9) ∧
  decode 0b000000_01001_11111_10101_11111_001001 = .ok (.jalr 21 9) ∧
  decode 0b000100_01001_10010_1000010000100001 = .ok (.beq 9 18 0x8421) ∧
  decode 0b000101_01001_10010_1000010000100001 = .ok (.bne 9 18 0x8421) ∧
  decode 0b000110_01001_11111_1000010000100001 = .ok (.blez 9 0x8421) ∧
  decode 0b000111_01001_11111_1000010000100001 = .ok (.bgtz 9 0x8421) ∧
  decode 0b000001_01001_00000_1000010000100001 = .ok (.bltz 9 0x8421) ∧
  decode 0b000001_01001_00001_1000010000100001 = .ok (.bgez 9 0x8421) ∧
  decode 0b000001_01001_10000_1000010000100001 = .ok (.bltzal 9 0x8421) ∧
  decode 0b000001_01001_10001_1000010000100001 = .ok (.bgezal 9 0x8421) ∧
  decode 0b000000_11111_11111_11111_11111_001100 = .ok .syscall := by decide

theorem test_decode_load :
  decode 0b100000_01001_10010_1000010000100001 = .ok (.lb 18 9 0x8421) ∧
  decode 0b100100_01001_10010_1000010000100001 = .ok (.lbu 18 9 0x8421) ∧
  decode 0b100001_01001_10010_1000010000100001 = .ok (.lh 18 9 0x8421) ∧
  decode 0b100101_01001_10010_1000010000100001 = .ok (.lhu 18 9 0x8421) ∧
  decode 0b100011_01001_10010_1000010000100001 = .ok (.lw 18 9 0x8421) ∧
  decode 0b100010_01001_10010_1000010000100001 = .ok (.lwl 18 9 0x8421) ∧
  decode 0b100110_01001_10010_1000010000100001 = .ok (.lwr 18 9 0x8421) := by decide

theorem test_decode_store :
  decode 0b101000_01001_10010_1000010000100001 = .ok (.sb 18 9 0x8421) ∧
  decode 0b101001_01001_10010_1000010000100001 = .ok (.sh 18 9 0x8421) ∧
  decode 0b101011_01001_10010_1000010000100001 = .ok (.sw 18 9 0x8421) ∧
  decode 0b101010_01001_10010_1000010000100001 = .ok (.swl 18 9 0x8421) ∧
  decode 0b101110_01001_10010_1000010000100001 = .ok (.swr 18 9 0x8421) := by decide

theorem test_decode_float :
  decode 0b010001_00000_10010_10100_11111_111111 = .ok (.mfc1 18 20) ∧
  decode 0b010001_00100_10010_10100_11111_111111 = .ok (.mtc1 18 20) ∧
  decode 0b010001_10000_11110_10100_01010_000000 = .ok (.addS 10 20 30) ∧
  decode 0b010001_10000_11110_10100_01010_000001 = .ok (.subS 10 20 30) ∧
  decode 0b010001_10000_11110_10100_01010_000010 = .ok (.mulS 10 20 30) ∧
  decode 0b010001_10000_11110_10100_01010_000011 = .ok (.divS 10 20 30) ∧
  decode 0b010001_10000_11111_10100_01010_000110 = .ok (.movS 10 20) ∧
  decode 0b010001_10001_11110_10100_01010_000000 = .ok (.addD 10 20 30) ∧
  decode 0b010001_10001_11110_10100_01010_000001 = .ok (.subD 10 20 30) ∧
  decode 0b010001_10001_11110_10100_01010_000010 = .ok (.mulD 10 20 30) ∧
  decode 0b010001_10001_11110_10100_01010_000011 = .ok (.divD 10 20 30) ∧
  decode 0b010001_10001_11111_10100_01010_000110 = .ok (.movD 10 20) ∧
  decode 0b110001_01001_11110_1000010000100001 = .ok (.lwc1 30 9 0x8421) ∧
  decode 0b111001_01001_11110_1000010000100001 = .ok (.swc1 30 9 0x8421) := by decide

theorem test_decode_refuses :
    decode 0x0000000D = .error .illegal ∧ decode 0x00000001 = .error .illegal ∧ decode 0x04020000 = .error .illegal ∧
    decode 0x44400000 = .error .illegal ∧ decode 0x46000004 = .error .illegal ∧ decode 0x40000000 = .error .illegal ∧
    decode 0xFC000000 = .error .illegal ∧ decode 0x46200880 = .error (.unmodelled "odd double register") := by decide

/-- Big-endian bytes (20_memory.md R49, R50). -/
theorem test_decode_bytes : decodeBytes [0x24, 0x01, 0x80, 0x00, 0x55] = .ok (.addiu 1 0 0x8000, [0x55]) ∧
    decodeBytes [0x24, 0x01, 0x80] = .error .truncated ∧ decodeTableWord 32 0x24018000 = some (.addiu 1 0 0x8000) := by decide

/-- The assembler idioms of 45_reference_isa_int.md R163. -/
theorem test_idioms : encode idiomNop = 0 ∧ idiomLi 4 0xFFFF8000 = [.addiu 4 0 0x8000] ∧
    idiomLi 4 0x12345678 = [.lui 4 0x1234, .ori 4 4 0x5678] := by decide

/-! ## One step of each instruction -/

/-- T-SH-1. -/
theorem test_sll : gprOf (exec (.sll 1 2 31) (regs [(2, 1)])) 1 = some 0x80000000 := by decide

/-- T-SH-5. -/
theorem test_srl : gprOf (exec (.srl 1 2 4) (regs [(2, 0x80000000)])) 1 = some 0x08000000 := by decide

/-- T-SH-4. -/
theorem test_sra : gprOf (exec (.sra 1 2 31) (regs [(2, 0x80000000)])) 1 = some 0xFFFFFFFF := by decide

/-- T-SH-7. -/
theorem test_sllv_amount_32 : gprOf (exec (.sllv 1 2 3) (regs [(3, 32), (2, 5)])) 1 = some 5 := by decide

/-- T-SH-6. -/
theorem test_srlv_amount_33 : gprOf (exec (.srlv 1 2 3) (regs [(3, 33), (2, 0x80000000)])) 1 = some 0x40000000 := by decide

/-- T-SH-8. -/
theorem test_srav : gprOf (exec (.srav 1 2 3) (regs [(3, 31), (2, 0x80000000)])) 1 = some 0xFFFFFFFF := by decide

/-- T-AR-2. -/
theorem test_add : gprOf (exec (.add 1 2 3) (regs [(2, 0xFFFFFFFF), (3, 0xFFFFFFFF)])) 1 = some 0xFFFFFFFE := by decide

/-- T-AR-4. -/
theorem test_add_overflow :
    faultOf (exec (.add 1 2 3) (regs [(2, 0x80000000), (3, 0x80000000)])) = some (.integerOverflow 0x400) := by decide

/-- T-AR-5. -/
theorem test_addu : gprOf (exec (.addu 1 2 3) (regs [(2, 0x7FFFFFFF), (3, 1)])) 1 = some 0x80000000 := by decide

/-- T-AR-8. -/
theorem test_sub : gprOf (exec (.sub 1 2 3) (regs [(2, 0xFFFFFFFF), (3, 0x7FFFFFFF)])) 1 = some 0x80000000 := by decide

/-- T-AR-7. -/
theorem test_sub_overflow :
    faultOf (exec (.sub 1 2 3) (regs [(2, 0), (3, 0x80000000)])) = some (.integerOverflow 0x400) := by decide

/-- T-AR-9. -/
theorem test_subu : gprOf (exec (.subu 1 2 3) (regs [(2, 0), (3, 1)])) 1 = some 0xFFFFFFFF := by decide

/-- T-AR-10. -/
theorem test_and : gprOf (exec (.and 1 2 3) (regs [(2, 0xF0F0F0F0), (3, 0x0FF00FF0)])) 1 = some 0x00F000F0 := by decide

/-- T-AR-11. -/
theorem test_or : gprOf (exec (.or 1 2 3) (regs [(2, 0xF0F0F0F0), (3, 0x0FF00FF0)])) 1 = some 0xFFF0FFF0 := by decide

/-- T-AR-12. -/
theorem test_xor : gprOf (exec (.xor 1 2 3) (regs [(2, 0xF0F0F0F0), (3, 0x0FF00FF0)])) 1 = some 0xFF00FF00 := by decide

/-- R177. -/
theorem test_nor : gprOf (exec (.nor 1 2 3) (regs [(2, 0), (3, 0)])) 1 = some 0xFFFFFFFF := by decide

/-- T-AR-14. -/
theorem test_slt : gprOf (exec (.slt 1 2 3) (regs [(2, 0x80000000), (3, 0x7FFFFFFF)])) 1 = some 1 := by decide

/-- T-AR-15. -/
theorem test_sltu : gprOf (exec (.sltu 1 2 3) (regs [(2, 0x80000000), (3, 0x7FFFFFFF)])) 1 = some 0 := by decide

/-- T-AR-18. -/
theorem test_add_x0 : gprOf (exec (.add 0 2 3) (regs [(2, 5), (3, 7)])) 0 = some 0 := by decide

/-- T-MD-3. -/
theorem test_mult : hiLoOf (exec (.mult 2 3) (regs [(2, 0xFFFFFFFD), (3, 5)])) = some (0xFFFFFFFF, 0xFFFFFFF1) := by decide

/-- T-MD-2. -/
theorem test_mult_min : hiLoOf (exec (.mult 2 3) (regs [(2, 0x80000000), (3, 0x80000000)])) = some (0x40000000, 0) := by decide

/-- T-MD-5. -/
theorem test_multu : hiLoOf (exec (.multu 2 3) (regs [(2, 0xFFFFFFFF), (3, 0xFFFFFFFF)])) = some (0xFFFFFFFE, 1) := by decide

/-- T-MD-6. -/
theorem test_div_negative :
    hiLoOf (exec (.div 2 3) (regs [(2, 0xFFFFFFF9), (3, 2)])) = some (0xFFFFFFFF, 0xFFFFFFFD) := by decide

/-- T-MD-7. -/
theorem test_div_negative_divisor :
    hiLoOf (exec (.div 2 3) (regs [(2, 7), (3, 0xFFFFFFFE)])) = some (1, 0xFFFFFFFD) := by decide

/-- T-MD-13. -/
theorem test_divu : hiLoOf (exec (.divu 2 3) (regs [(2, 0x80000000), (3, 0xFFFFFFFF)])) = some (0x80000000, 0) := by decide

/-- T-MD-14. -/
theorem test_divu_zero : faultOf (exec (.divu 2 3) (regs [(2, 5), (3, 0)])) = some (.divideByZero 0x400) := by decide

/-- T-MD-15. -/
theorem test_mfhi : gprOf (exec (.mfhi 1) { regs [] with hi := 0x12345678 }) 1 = some 0x12345678 := by decide

/-- R182. -/
theorem test_mflo : gprOf (exec (.mflo 1) { regs [] with lo := 0x12345678 }) 1 = some 0x12345678 := by decide

/-- T-MD-16. -/
theorem test_mthi : hiLoOf (exec (.mthi 2) (regs [(2, 0xAB)])) = some (0xAB, 0) := by decide

/-- T-MD-17. -/
theorem test_mtlo : hiLoOf (exec (.mtlo 2) (regs [(2, 0xAB)])) = some (0, 0xAB) := by decide

/-- T-IM-1. -/
theorem test_addi : gprOf (exec (.addi 1 2 0xFFFF) (regs [(2, 1)])) 1 = some 0 := by decide

/-- T-IM-3. -/
theorem test_addi_overflow :
    faultOf (exec (.addi 1 2 0xFFFF) (regs [(2, 0x80000000)])) = some (.integerOverflow 0x400) := by decide

/-- T-IM-4. -/
theorem test_addiu : gprOf (exec (.addiu 1 0 0x8000) (regs [])) 1 = some 0xFFFF8000 := by decide

/-- T-IM-7. -/
theorem test_slti : gprOf (exec (.slti 1 2 0xFFFF) (regs [(2, 0xFFFFFFFE)])) 1 = some 1 := by decide

/-- T-IM-9. -/
theorem test_sltiu : gprOf (exec (.sltiu 1 2 0xFFFF) (regs [(2, 5)])) 1 = some 1 := by decide

/-- T-IM-10. -/
theorem test_andi : gprOf (exec (.andi 1 2 0xFFFF) (regs [(2, 0xFFFF1234)])) 1 = some 0x00001234 := by decide

/-- T-IM-12. -/
theorem test_ori : gprOf (exec (.ori 1 2 0x5678) (regs [(2, 0x12340000)])) 1 = some 0x12345678 := by decide

/-- T-IM-13. -/
theorem test_xori : gprOf (exec (.xori 1 2 0xFFFF) (regs [(2, 0x12345678)])) 1 = some 0x1234A987 := by decide

/-- T-IM-14. -/
theorem test_lui : gprOf (exec (.lui 1 0xFFFF) (regs [])) 1 = some 0xFFFF0000 := by decide

/-- T-CT-2. -/
theorem test_j : branchOf (exec (.j 0x2AF37BC) ((regs []).setPc 0x0FFFFFFC)) = some (true, true, 0x1ABCDEF0) := by decide

/-- T-CT-4. -/
theorem test_jal :
    branchOf (exec (.jal 0x104) (regs [])) = some (true, true, 0x410) ∧ gprOf (exec (.jal 0x104) (regs [])) 31 = some 0x408 := by decide

/-- T-CT-5. -/
theorem test_jr : branchOf (exec (.jr 1) (regs [(1, 0x1000)])) = some (true, true, 0x1000) := by decide

/-- T-CT-6. -/
theorem test_jalr : branchOf (exec (.jalr 31 1) (regs [(1, 0x2000)])) = some (true, true, 0x2000) ∧
    gprOf (exec (.jalr 31 1) (regs [(1, 0x2000)])) 31 = some 0x408 := by decide

/-- R199. -/
theorem test_jalr_same_register : branchOf (exec (.jalr 1 1) (regs [(1, 0x2000)])) = some (true, true, 0x2000) ∧
    gprOf (exec (.jalr 1 1) (regs [(1, 0x2000)])) 1 = some 0x408 := by decide

/-- T-CT-7. -/
theorem test_beq : branchOf (exec (.beq 1 2 0xFFFF) (regs [(1, 3), (2, 3)])) = some (true, true, 0x400) := by decide

/-- T-CT-8. -/
theorem test_bne : branchOf (exec (.bne 1 2 4) (regs [(1, 3), (2, 3)])) = some (true, false, 0x414) := by decide

/-- T-CT-9. -/
theorem test_blez : branchOf (exec (.blez 1 4) (regs [])) = some (true, true, 0x414) := by decide

/-- T-CT-10. -/
theorem test_bgtz : branchOf (exec (.bgtz 1 4) (regs [(1, 0x80000000)])) = some (true, false, 0x414) := by decide

/-- T-CT-11. -/
theorem test_bltz : branchOf (exec (.bltz 1 4) (regs [(1, 0xFFFFFFFF)])) = some (true, true, 0x414) := by decide

/-- T-CT-12. -/
theorem test_bgez : branchOf (exec (.bgez 1 4) (regs [])) = some (true, true, 0x414) := by decide

/-- T-CT-13. -/
theorem test_bltzal : branchOf (exec (.bltzal 1 4) (regs [(1, 1)])) = some (true, false, 0x414) ∧
    gprOf (exec (.bltzal 1 4) (regs [(1, 1)])) 31 = some 0x408 := by decide

/-- T-CT-14. -/
theorem test_bgezal :
    branchOf (exec (.bgezal 0 0x10) (regs [])) = some (true, true, 0x444) ∧ gprOf (exec (.bgezal 0 0x10) (regs [])) 31 = some 0x408 := by decide

/-- T-LD-1. -/
theorem test_lb : gprOf (exec (.lb 1 2 4) (mems [(2, 0x1000)])) 1 = some 0xFFFFFF80 := by decide

/-- T-LD-2. -/
theorem test_lbu : gprOf (exec (.lbu 1 2 6) (mems [(2, 0x1000)])) 1 = some 0x000000FF := by decide

/-- T-LD-3. -/
theorem test_lh : gprOf (exec (.lh 1 2 6) (mems [(2, 0x1000)])) 1 = some 0xFFFFFF7F := by decide

/-- T-LD-4. -/
theorem test_lhu : gprOf (exec (.lhu 1 2 4) (mems [(2, 0x1000)])) 1 = some 0x00008001 := by decide

/-- T-LD-8. -/
theorem test_lw : gprOf (exec (.lw 1 2 0xFFFC) (mems [(2, 0x1004)])) 1 = some 0x11223344 := by decide

/-- T-LD-9. -/
theorem test_lw_undefined : faultOf (exec (.lw 2 1 0) (mems [(1, 0x2000)])) = some (.undefinedRead 0x2000) := by decide

/-- T-LD-6. -/
theorem test_lwl : gprOf (exec (.lwl 1 2 1) (mems [(1, 0xAABBCCDD), (2, 0x1000)])) 1 = some 0x223344DD := by decide

/-- T-LD-6. -/
theorem test_lwl_last : gprOf (exec (.lwl 1 2 3) (mems [(1, 0xAABBCCDD), (2, 0x1000)])) 1 = some 0x44BBCCDD := by decide

/-- T-LD-7. -/
theorem test_lwr : gprOf (exec (.lwr 1 2 1) (mems [(1, 0xAABBCCDD), (2, 0x1000)])) 1 = some 0xAABB1122 := by decide

/-- T-LD-7. -/
theorem test_lwr_first : gprOf (exec (.lwr 1 2 0) (mems [(1, 0xAABBCCDD), (2, 0x1000)])) 1 = some 0xAABBCC11 := by decide

/-- T-ST-1. -/
theorem test_sb :
    bytesOf (exec (.sb 1 2 1) (mems [(1, 0xAABBCCDD), (2, 0x1000)])) = [some 0x11, some 0xDD, some 0x33, some 0x44] := by decide

/-- T-ST-2. -/
theorem test_sh :
    bytesOf (exec (.sh 1 2 2) (mems [(1, 0xAABBCCDD), (2, 0x1000)])) = [some 0x11, some 0x22, some 0xCC, some 0xDD] := by decide

/-- T-ST-3. -/
theorem test_sw :
    bytesOf (exec (.sw 1 2 0) (mems [(1, 0xAABBCCDD), (2, 0x1000)])) = [some 0xAA, some 0xBB, some 0xCC, some 0xDD] := by decide

/-- T-ST-3. -/
theorem test_sw_misaligned :
    faultOf (exec (.sw 1 2 2) (mems [(1, 0xAABBCCDD), (2, 0x1000)])) = some (.misalignedData 0x1002) := by decide

/-- T-ST-4. -/
theorem test_swl :
    bytesOf (exec (.swl 1 2 1) (mems [(1, 0xAABBCCDD), (2, 0x1000)])) = [some 0x11, some 0xAA, some 0xBB, some 0xCC] := by decide

/-- T-ST-5. -/
theorem test_swr :
    bytesOf (exec (.swr 1 2 2) (mems [(1, 0xAABBCCDD), (2, 0x1000)])) = [some 0xBB, some 0xCC, some 0xDD, some 0x44] := by decide

/-- T-FP-1. -/
theorem test_mtc1 : fprOf (exec (.mtc1 9 2) (regs [(9, 0x3F800000)])) 2 = some 0x3F800000 ∧
    fprOf (exec (.mtc1 9 2) (regs [(9, 0x3F800000)])) 3 = some 0 := by decide

/-- T-FP-2. -/
theorem test_mfc1 : gprOf (exec (.mfc1 5 7) (fregs [(7, 0x40000000)])) 5 = some 0x40000000 := by decide

/-- R249. -/
theorem test_movS : fprOf (exec (.movS 4 7) (fregs [(7, 0x40000000)])) 4 = some 0x40000000 := by decide

/-- R254. -/
theorem test_movD : fprOf (exec (.movD 4 0) (fregs [(1, 0x3FF00000), (0, 7)])) 5 = some 0x3FF00000 ∧
    fprOf (exec (.movD 4 0) (fregs [(1, 0x3FF00000), (0, 7)])) 4 = some 7 := by decide

/-- T-FP-7. -/
theorem test_addD_odd : faultOf (exec (.addD 2 1 0) (regs [])) = some (.unmodelledInstruction 0x46200880) := by decide

/-- T-FP-8's form on the T-LD memory. -/
theorem test_lwc1 : fprOf (exec (.lwc1 4 1 0) (mems [(1, 0x1000)])) 4 = some 0x11223344 := by decide

/-- T-FP-9's form, at 0x1000. -/
theorem test_swc1 :
    bytesOf (exec (.swc1 2 1 8) { fregs [(2, 0x3F800000)] with x := (regs [(1, 0xFF8)]).x }) = [some 0x3F, some 0x80, some 0, some 0] := by decide

/-- T-L1-1. -/
theorem test_syscall_exit : haltOf (exec .syscall (regs [(2, 10)])) = some (some .syscallExit) := by decide

/-- T-FLT-7. -/
theorem test_syscall_unknown : faultOf (exec .syscall (regs [(2, 4)])) = some (.unknownSyscall 4) := by decide

/-- The opaque floating-point functions get their operands in order (46_reference_isa_fp.md R245 to R253). -/
theorem test_single_arithmetic :
    fprOf (exec (.addS 4 2 3) (fregs [(2, 1), (3, 2)])) 4 = some (Config.fadd32 1 2) ∧
    fprOf (exec (.subS 4 2 3) (fregs [(2, 1), (3, 2)])) 4 = some (Config.fsub32 1 2) ∧
    fprOf (exec (.mulS 4 2 3) (fregs [(2, 1), (3, 2)])) 4 = some (Config.fmul32 1 2) ∧
    fprOf (exec (.divS 4 2 3) (fregs [(2, 1), (3, 2)])) 4 = some (Config.fdiv32 1 2) := ⟨rfl, rfl, rfl, rfl⟩

/-- The pair's odd word is the high word (46_reference_isa_fp.md R240). -/
theorem test_double_arithmetic :
    fprOf (exec (.addD 4 0 2) (fregs [(1, 1), (2, 2)])) 5 = some ((Config.fadd64 0x100000000 2).extractLsb' 32 32) ∧
    fprOf (exec (.subD 4 0 2) (fregs [(1, 1), (2, 2)])) 4 = some ((Config.fsub64 0x100000000 2).extractLsb' 0 32) ∧
    fprOf (exec (.mulD 4 0 2) (fregs [(1, 1), (2, 2)])) 5 = some ((Config.fmul64 0x100000000 2).extractLsb' 32 32) ∧
    fprOf (exec (.divD 4 0 2) (fregs [(1, 1), (2, 2)])) 4 = some ((Config.fdiv64 0x100000000 2).extractLsb' 0 32) :=
  ⟨rfl, rfl, rfl, rfl⟩

/-- A delay slot is consumed with the redirect (42_execute_delay_slot.md R131). -/
theorem test_delay_slot : view (fun t => (t.pc, t.bdPending))
    (exec (.addiu 1 0 1) { regs [] with bdPending := true, bdTaken := true, bdTarget := 0x124 }) = some (0x124, false) := by decide

/-- T-FLT-5 and T-FLT-6's form. -/
theorem test_control_in_delay_slot : faultOf (exec (.j 0x100) { regs [] with bdPending := true }) = some (.controlInDelaySlot 0x400) ∧
    faultOf (exec .syscall { regs [] with bdPending := true }) = some (.controlInDelaySlot 0x400) := by decide

/-! ## One tick -/

/-- The reset state with the given words in memory from its pc on. -/
def boot (ws : List Word) : State :=
  State.reset.withMem ((ws.zipIdx).foldl (fun m c => Memory.write4 m (Config.bootPC + BitVec.ofNat 32 (4 * c.2)) c.1) [])

/-- The example of 40_clock_fetch.md R89. -/
theorem test_first_fetch : view (fun t => (t.ifId.cur, t.pc, t.nFetched, t.nCycles)) (step (boot [0x24010001])) =
    some (fetched 0x400 0x24010001, 0x404, 1, 1) := by decide

/-- T-FLT-12, and a fetch of bytes with no value (20_memory.md R55). -/
theorem test_fetch_faults : faultOf (step { boot [0] with pc := 0x402 }) = some (.misalignedFetch 0x402) ∧
    faultOf (step State.reset) = some (.undefinedRead 0x400) := by decide

/-- The register a word makes in Decode, with zero operands. -/
def dec (a w : Word) : PipeReg :=
  match refDecode w with
  | .legal d => decoded (fetched a w) d 0 0 .none .none
  | _ => bubble

/-- Fetch to Writeback, in that order, in a state whose reached budget fetches nothing. -/
def pipe (i e m q : PipeReg) : State :=
  { State.reset with ifId := { cur := i }, idEx := { cur := e }, exMem := { cur := m }, memWb := { cur := q }, instrBudget := some 0 }

/-- Stalls of 41_decode_hazard.md R119 at distance 1 (T-HZ-1, T-HZ-2) and for HI/LO (T-HZ-9), in the mode the spec names. -/
theorem test_stalls :
    view (·.stall) (step (pipe (fetched 0x404 0x00622821) (dec 0x400 0x00221821) bubble bubble)) = some true ∧
    view (·.stall) (step { pipe (fetched 0x404 0x00622821) (dec 0x400 0x00221821) bubble bubble with fwdMode := .ex }) = some false ∧
    view (·.stall) (step { pipe (fetched 0x404 0x00622821) (dec 0x400 0x8C230000) bubble bubble with fwdMode := .exmem }) = some true ∧
    view (·.stall) (step { pipe (fetched 0x404 0x00002812) (dec 0x400 0x00220018) bubble bubble with fwdMode := .exmem }) = some true := by
  decide

/-- From reset, a placed `ADDIU r1,r0,1` is fetched by the next step and retired by the fifth, which ends its one-word run
(70_reset_and_hazards.md R312; 40_clock_fetch.md R94). -/
theorem test_placed_word_runs : view (fun t => (t.x[1], t.pc, t.nFetched, t.nCycles, t.haltReason))
    (run 5 (State.reset.withFetchWord 32 0x24010001)) = some (1, 0x404, 1, 5, some .budget) := by decide

/-- A collaborator with every ability of 60_exceptions.md R282 but the two free values: it copies a word from x1 to x1 + 4 and a double
word from x1 to x1 + 8, writes x6, and its two loads and two stores are counted. -/
theorem test_collaborator :
    (match handSyscall (fun q => .getReg 1 fun a => .getWord a fun v => .setWord (a + 4) v (.getDouble a fun d =>
        .setDouble (a + 8) d (.setReg 6 q.reg.pc (.done false)))) (mems [(1, 0x1000)]) { bubble with pc := 0x500 } with
      | .ok t => (t.nLoad, t.nStore, t.x[6], t.pc) == (2, 2, 0x500, 0x504) &&
          Memory.byte? t.mem 0x1004 == some 0x11 && Memory.byte? t.mem 0x100F == some 0x44
      | .error _ => false) = true := by decide

/-- A collaborator's write of `x[0]` is discarded by the call itself (60_exceptions.md R282). -/
theorem test_collaborator_keeps_x0 :
    (match SysProg.run (.setReg 0 7 (.setReg 31 7 (.done false))) (regs []) with
      | .ok (t, _) => (t.x[0], t.x[31]) == (0, 7)
      | .error _ => false) = true := by decide

/-- Two time queries of one call may answer two times, the second at least the first (46_reference_isa_fp.md R261). -/
theorem test_two_time_queries :
    State.Syscall (regs []) (fun _ => .getTime fun t => .getTime fun u => .done (t != u)) bubble
      (.ok (((regs []).tookTime 5).tookTime 7, true)) := ⟨5, by decide, 7, by decide, rfl⟩

/-- An illegal opcode gives the dump and then the statistics, any other end the statistics alone (40_clock_fetch.md R95). -/
theorem test_reports :
    (State.reports { regs [] with exit := true, haltReason := some .illegalOpcode }).map
      (fun | .registerDump _ => true | .statistics _ => false) = [true, false] ∧
    (State.reports { regs [] with exit := true, haltReason := some .budget }).map
      (fun | .registerDump _ => true | .statistics _ => false) = [false] := by decide

/-! ## States that meet the obligations' hypotheses, one theorem for each obligation that has any -/

/-- From a check of the outcome to a next state with what was checked. -/
theorem next_of_view {p : State → Bool} {o : Host.Outcome State Fault Refusal} (h : view p o = some true) :
    ∃ t, o = .next t ∧ p t = true := by
  cases o with
  | next t => exact ⟨t, rfl, by simpa [view] using h⟩
  | fault r => simp [view] at h
  | refused r => simp [view] at h

theorem witness_EncodeOfDecodeKeepsUsedBits : decode 0x00221821 = .ok (.addu 3 1 2) := by decide

theorem witness_MatchingRowNamesInstruction :
    ((0x00000021, 0xFC00003F, .addu) ∈ opcodeTable ∧ rowMatches 0x00221821 (0x00000021, 0xFC00003F, .addu) = true) ∧
    ((0x46200000, 0xFFE0003F, .addD) ∈ opcodeTable ∧ rowMatches 0x46200880 (0x46200000, 0xFFE0003F, .addD) = true ∧
      decode 0x46200880 = .error (.unmodelled "odd double register")) := by decide

theorem witness_ReferenceDecoderMeetsContract : Cfg.reference.decode 0x46200080 = .legal (infoAddD 2 0 0 0x46200080) := rfl

theorem witness_RebootSetsResetValues : ([((0x400 : Word), (0x24 : Byte)), (0x401, 0x01)].map (·.1)).Nodup := by decide

theorem witness_InvariantsHoldAfterReboot : ∃ s, reboot (some [(0x400, 0x24)]) 0x400 .ex (some 3) = .ok s := ⟨_, rfl⟩

theorem witness_StepKeepsDataInvariant : ∃ t, DataInv (boot [0x24010001]) ∧ step (boot [0x24010001]) = .next t := by
  obtain ⟨t, h, -⟩ := next_of_view (p := fun t => t.booted) (o := step (boot [0x24010001])) (by decide)
  exact ⟨t, ⟨by decide, by decide⟩, h⟩

/-- A system call in Execute; a delay slot pending behind its branch; an illegal opcode in Memory. -/
theorem witness_StepKeepsDrainInvariant :
    (∃ s t : State, DrainInv s ∧ step s = .next t ∧ t.exit = false ∧ s.syscallPending = true) ∧
    (∃ s t : State, DrainInv s ∧ step s = .next t ∧ t.exit = false ∧ s.bdPending = true ∧ s.budgetReached = false) ∧
    (∃ s t : State, DrainInv s ∧ step s = .next t ∧ t.exit = false ∧ s.illegalPending = true) := by
  refine ⟨?_, ?_, ?_⟩
  · obtain ⟨t, h, he⟩ := next_of_view (p := fun t => !t.exit)
      (o := step { pipe bubble (dec 0x400 0xC) bubble bubble with syscallPending := true }) (by decide)
    exact ⟨_, t, by constructor <;> decide, h, by simpa using he, rfl⟩
  · obtain ⟨t, h, he⟩ := next_of_view (p := fun t => !t.exit)
      (o := step { (pipe bubble (dec 0x404 0) bubble bubble).withMem data with bdPending := true, instrBudget := none, pc := 0x1000 })
      (by decide)
    exact ⟨_, t, by constructor <;> decide, h, by simpa using he, rfl, rfl⟩
  · obtain ⟨t, h, he⟩ := next_of_view (p := fun t => !t.exit)
      (o := step { pipe bubble bubble (illegalReg (fetched 0x400 0xD)) bubble with illegalPending := true }) (by decide)
    exact ⟨_, t, by constructor <;> decide, h, by simpa using he, rfl⟩

/-- An operand forwarded from Execute, one from Memory, a floating-point operand, and a user of HI in Execute after the step. -/
theorem witness_ExecuteOperandsAreSequential :
    (∃ s t : State, step s = .next t ∧ t.exit = false ∧ t.idEx.cur.fwd1 = .fromEX) ∧
    (∃ s t : State, step s = .next t ∧ t.exit = false ∧ t.idEx.cur.fwd1 = .fromMEM) ∧
    (∃ s t : State, step s = .next t ∧ t.exit = false ∧ t.idEx.cur.src1 = .fpr 2) ∧
    (∃ s t : State, step s = .next t ∧ t.exit = false ∧ t.idEx.cur.readsHi = true) := by
  refine ⟨?_, ?_, ?_, ?_⟩
  · obtain ⟨t, h, he⟩ := next_of_view (p := fun t => !t.exit && t.idEx.cur.fwd1 == .fromEX)
      (o := step { pipe (fetched 0x404 0x00622821) (dec 0x400 0x00221821) bubble bubble with fwdMode := .ex }) (by decide)
    exact ⟨_, t, h, by simpa using he⟩
  · obtain ⟨t, h, he⟩ := next_of_view (p := fun t => !t.exit && t.idEx.cur.fwd1 == .fromMEM)
      (o := step { pipe (fetched 0x404 0x00622821) bubble (dec 0x400 0x00221821) bubble with fwdMode := .exmem }) (by decide)
    exact ⟨_, t, h, by simpa using he⟩
  · obtain ⟨t, h, he⟩ := next_of_view (p := fun t => !t.exit && t.idEx.cur.src1 == .fpr 2)
      (o := step (pipe (fetched 0x404 0x46021100) (dec 0x400 0) bubble bubble)) (by decide)
    exact ⟨_, t, h, by simpa using he⟩
  · obtain ⟨t, h, he⟩ := next_of_view (p := fun t => !t.exit && t.idEx.cur.readsHi)
      (o := step (pipe (fetched 0x404 0x00001810) bubble bubble bubble)) (by decide)
    exact ⟨_, t, h, by simpa using he⟩

theorem witness_OnlyLiveStatesTick : State.reset.mayTick = true ∧ ∃ t, step (boot [0]) = .next t := by
  obtain ⟨t, h, -⟩ := next_of_view (p := fun t => t.booted) (o := step (boot [0])) (by decide)
  exact ⟨by decide, t, h⟩

theorem witness_FaultDiscardsTick : State.reset.mayTick = true ∧ tick Cfg.reference State.reset = .error (.undefinedRead 0x400) :=
  ⟨by decide, rfl⟩

theorem witness_StepCountsOneCycle : ∃ t, step (boot [0]) = .next t := witness_OnlyLiveStatesTick.2

/-- Each of the three ends, and a step that ends nothing. -/
theorem witness_OnlyThreeEventsEndRun :
    (∃ s t : State, step s = .next t ∧ t.exit = true ∧ t.haltReason = some .illegalOpcode) ∧
    (∃ s t : State, step s = .next t ∧ t.exit = true ∧ t.haltReason = some .syscallExit) ∧
    (∃ s t : State, step s = .next t ∧ t.exit = true ∧ t.haltReason = some .budget) ∧
    (∃ s t : State, step s = .next t ∧ t.exit = false) := by
  refine ⟨?_, ?_, ?_, ?_⟩
  · obtain ⟨t, h, he⟩ := next_of_view (p := fun t => t.exit && t.haltReason == some .illegalOpcode)
      (o := step (pipe bubble bubble bubble (illegalReg (fetched 0x400 0xD)))) (by decide)
    exact ⟨_, t, h, by simpa using he⟩
  · obtain ⟨t, h, he⟩ := next_of_view (p := fun t => t.exit && t.haltReason == some .syscallExit)
      (o := step { pipe bubble bubble bubble (dec 0x400 0xC) with x := (regs [(2, 10)]).x }) (by decide)
    exact ⟨_, t, h, by simpa using he⟩
  · obtain ⟨t, h, he⟩ := next_of_view (p := fun t => t.exit && t.haltReason == some .budget)
      (o := step (pipe bubble bubble bubble (dec 0x400 0))) (by decide)
    exact ⟨_, t, h, by simpa using he⟩
  · obtain ⟨t, h, he⟩ := next_of_view (p := fun t => !t.exit) (o := step (boot [0])) (by decide)
    exact ⟨_, t, h, by simpa using he⟩

theorem witness_BubblesWriteNothing : ∃ s t : State, step s = .next t ∧ s.memWb.cur.isNop = true ∧
    s.exMem.cur.isNop = false ∧ s.exMem.cur.memOp = false := by
  obtain ⟨t, h, -⟩ := next_of_view (p := fun t => t.booted) (o := step (pipe bubble bubble (dec 0x400 0) bubble)) (by decide)
  exact ⟨_, t, h, rfl, rfl, rfl⟩

/-- A branch that completes and a division by zero that faults. -/
theorem witness_FourTicksRunDecodedInstruction :
    (∃ t, State.mayTick { pipe (fetched 0x3FC 0x10000008) bubble bubble bubble with pc := 0x400 } = true ∧
      decode 0x10000008 = .ok (.beq 0 0 8) ∧ (0x400 : Word) = 0x3FC + 4 ∧
      State.budgetReached { pipe (fetched 0x3FC 0x10000008) bubble bubble bubble with pc := 0x400 } = true ∧
      exec (.beq 0 0 8) (State.setPc { pipe (fetched 0x3FC 0x10000008) bubble bubble bubble with pc := 0x400 } 0x3FC) = .next t) ∧
    (State.mayTick { pipe (fetched 0x3FC 0x0020001A) bubble bubble bubble with pc := 0x400 } = true ∧
      decode 0x0020001A = .ok (.div 1 0) ∧
      exec (.div 1 0) (State.setPc { pipe (fetched 0x3FC 0x0020001A) bubble bubble bubble with pc := 0x400 } 0x3FC)
        = .fault (.divideByZero 0x3FC)) := by
  obtain ⟨t, h, -⟩ := next_of_view (p := fun t => t.booted)
    (o := exec (.beq 0 0 8) (State.setPc { pipe (fetched 0x3FC 0x10000008) bubble bubble bubble with pc := 0x400 } 0x3FC)) (by decide)
  exact ⟨⟨t, by decide, by decide, by decide, by decide, h⟩, by decide, by decide, rfl⟩

theorem witness_FiveTicksDoOneSequentialStep :
    let s : State := { boot [0x24010001] with instrBudget := some 1 }
    let u : State := { State.reset with instrBudget := some 1 }
    (s.mayTick = true ∧ DataInv s ∧ s.drained = true ∧ s.instrBudget = some (s.nFetched + 1) ∧ ∃ t, seqStep s = .next t) ∧
    (u.mayTick = true ∧ DataInv u ∧ u.drained = true ∧ seqStep u = .fault (.undefinedRead 0x400)) := by
  obtain ⟨t, h, -⟩ := next_of_view (p := fun t => t.booted) (o := seqStep { boot [0x24010001] with instrBudget := some 1 }) (by decide)
  exact ⟨⟨by decide, ⟨by decide, by decide⟩, by decide, rfl, t, h⟩, by decide, ⟨by decide, by decide⟩, by decide, rfl⟩

/-- The five clauses in turn. -/
theorem witness_FetchStepAction :
    ((boot [0x24010001]).fetchEn = true ∧ (boot [0x24010001]).pc.toNat % 4 = 0 ∧
      Memory.read4 (boot [0x24010001]).mem (boot [0x24010001]).pc = .ok 0x24010001) ∧
    (State.reset.fetchEn = true ∧ State.reset.pc.toNat % 4 = 0 ∧
      Memory.read4 State.reset.mem State.reset.pc = .error (.undefinedRead 0x400)) ∧
    (State.fetchEn (State.reset.setPc 0x403) = true ∧ (State.reset.setPc 0x403).pc.toNat % 4 ≠ 0) ∧
    (State.fetchEn (State.reset.setStall true) = false ∧ (State.reset.setStall true).stall = true) ∧
    (State.fetchEn (State.reset.raiseSyscall true) = false ∧ (State.reset.raiseSyscall true).stall = false) :=
  ⟨⟨by decide, by decide, rfl⟩, ⟨by decide, by decide, rfl⟩, by decide, by decide, by decide⟩

theorem witness_FetchSeesSameTickStore :
    (∃ s t : State, step s = .next t ∧ t.exit = false ∧ t.nFetched = s.nFetched + 1) ∧
    (∃ s t : State, step s = .next t ∧ t.exit = false ∧ t.stall = true) ∧
    (∃ s t : State, step s = .next t ∧ t.exit = false ∧ t.nFetched = s.nFetched ∧ t.stall = false) := by
  refine ⟨?_, ?_, ?_⟩
  · obtain ⟨t, h, he⟩ := next_of_view (p := fun t => !t.exit && t.nFetched == 1) (o := step (boot [0])) (by decide)
    have hp : t.exit = false ∧ t.nFetched = 1 := by simpa using he
    exact ⟨_, t, h, hp.1, hp.2⟩
  · obtain ⟨t, h, he⟩ := next_of_view (p := fun t => !t.exit && t.stall)
      (o := step (pipe (fetched 0x404 0x00622821) (dec 0x400 0x00221821) bubble bubble)) (by decide)
    exact ⟨_, t, h, by simpa using he⟩
  · obtain ⟨t, h, he⟩ := next_of_view (p := fun t => !t.exit && (t.nFetched == 0 && !t.stall))
      (o := step (pipe bubble (dec 0x400 0) bubble bubble)) (by decide)
    have hp : t.exit = false ∧ t.nFetched = 0 ∧ t.stall = false := by simpa using he
    exact ⟨_, t, h, hp.1, hp.2.1, hp.2.2⟩

/-- The second clause: an instruction that completes and one that faults, both placed on the reset state. -/
theorem witness_PlacedWordIsFetchedNext : DataInv State.reset ∧
    decodeTableWord 32 0x24010001 = some (.addiu 1 0 1) ∧
    (∃ t, exec (.addiu 1 0 1) (State.reset.withFetchWord 32 0x24010001).countFetch = .next t) ∧
    decodeTableWord 32 0x1A = some (.div 0 0) ∧
    exec (.div 0 0) (State.reset.withFetchWord 32 0x1A).countFetch = .fault (.divideByZero 0x400) :=
  ⟨⟨by decide, by decide⟩, by decide, ⟨_, rfl⟩, by decide, rfl⟩

theorem witness_SourceSelection : (31 : RegIdx) ≠ 0 ∧ ForwardMode.ex ≠ .none ∧ ForwardMode.exmem ≠ .none := by decide

/-- A stalled delay slot, whose control instruction has just been executed, and a stall with no delay slot. -/
theorem witness_StallHoldsInstruction :
    (∃ s t : State, DrainInv s ∧ step s = .next t ∧ t.exit = false ∧ t.stall = true) ∧
    (∃ s t : State, DrainInv s ∧ step s = .next t ∧ t.exit = false ∧ t.stall = true ∧ s.bdPending = true) := by
  refine ⟨?_, ?_⟩
  · obtain ⟨t, h, he⟩ := next_of_view (p := fun t => !t.exit && t.stall)
      (o := step (pipe (fetched 0x404 0x00622821) (dec 0x400 0x00221821) bubble bubble)) (by decide)
    exact ⟨_, t, by constructor <;> decide, h, by simpa using he⟩
  · obtain ⟨t, h, he⟩ := next_of_view (p := fun t => !t.exit && t.stall)
      (o := step { pipe (fetched 0x408 0x00622821) bubble (dec 0x400 0x00221821) bubble with bdPending := true }) (by decide)
    have hp : t.exit = false ∧ t.stall = true := by simpa using he
    exact ⟨_, t, by constructor <;> decide, h, hp.1, hp.2, rfl⟩

/-- The six clauses: `ADDU r3,r1,r2` or `LW r3,0(r1)`, with 0x1000 as its operand, ahead of `ADDU r6,r3,r0` in each mode. -/
theorem witness_StallCyclesAtDistanceOne : ∀ mode : ForwardMode, ∀ w ∈ [(0x00221821 : Word), 0x8C230000],
    let s : State := { (pipe (fetched 0x404 0x24660001) { dec 0x400 w with val1 := 0x1000 } bubble bubble).withMem data with
      fwdMode := mode }
    s.ifId.cur = fetched 0x404 0x24660001 ∧ Cfg.reference.decode 0x24660001 = .legal (infoAddiu 6 3 0x24660001) ∧
    (infoAddiu 6 3 0x24660001).src1 = .gpr 3 ∧ (infoAddiu 6 3 0x24660001).src2 = .none ∧ s.idEx.cur.writesGpr 3 = true ∧
    s.idEx.cur.writesHiLo = false ∧ s.exMem.cur.isNop = true ∧
    ∃ t1 t2 t3, run 1 s = .next t1 ∧ run 2 s = .next t2 ∧ run 3 s = .next t3 ∧ t3.exit = false := by
  intro mode w hw
  simp only [List.mem_cons, List.not_mem_nil, or_false] at hw
  have key : ∀ s : State, view (fun t => t.booted) (run 1 s) = some true → view (fun t => t.booted) (run 2 s) = some true →
      view (fun t => !t.exit) (run 3 s) = some true →
      ∃ t1 t2 t3, run 1 s = .next t1 ∧ run 2 s = .next t2 ∧ run 3 s = .next t3 ∧ t3.exit = false := by
    intro s h1 h2 h3
    obtain ⟨t1, h1, -⟩ := next_of_view h1
    obtain ⟨t2, h2, -⟩ := next_of_view h2
    obtain ⟨t3, h3, he⟩ := next_of_view h3
    exact ⟨t1, t2, t3, h1, h2, h3, by simpa using he⟩
  cases mode <;> rcases hw with rfl | rfl <;>
    exact ⟨rfl, rfl, rfl, rfl, rfl, rfl, rfl, key _ (by decide) (by decide) (by decide)⟩

theorem witness_DecodeWritesNoArchitecturalState :
    ∃ t, idStep Cfg.reference (pipe (fetched 0x400 0xC) bubble bubble bubble) = .ok t := ⟨_, rfl⟩

/-- The five clauses in turn, with a delay slot pending: a bubble, an illegal word, a system call, a jump, and `ADDU`. -/
theorem witness_DelaySlotConsumption :
    let at' : PipeReg → State := fun e => { pipe bubble e bubble bubble with bdPending := true }
    let out : State → AluOut := fun s =>
      aluCall Cfg.reference.alu s.idEx.cur (aluInput s.idEx.cur (fwdVal s .none 0) (fwdVal s .none 0) s.hi s.lo)
    ∀ e ∈ [bubble, illegalReg (fetched 0x400 0xD), dec 0x400 0xC, dec 0x400 0x08000100, dec 0x400 0x00221821],
      (at' e).bdPending = true ∧ (e.fwd1 = .none ∧ e.fwd2 = .none ∧ e.val1 = 0 ∧ e.val2 = 0) ∧
      (e.isNop = true ∨ e.isNop = false ∧ e.isIllegal = true ∨ e.isNop = false ∧ e.isIllegal = false ∧ e.isSyscall = true ∨
        e.isNop = false ∧ e.isIllegal = false ∧ e.isSyscall = false ∧ (out (at' e)).fault = none ∧
          (out (at' e)).bd = (e.aluId == some .j)) := by
  decide

/-- `J 0x100`, no delay slot pending. -/
theorem witness_ControlSetsController :
    let s : State := pipe bubble (dec 0x400 0x08000100) bubble bubble
    s.bdPending = false ∧ s.idEx.cur.isNop = false ∧ s.idEx.cur.isIllegal = false ∧ s.idEx.cur.isSyscall = false ∧
    s.idEx.cur.aluId.isSome = true ∧
    (aluCall Cfg.reference.alu s.idEx.cur (aluInput s.idEx.cur (fwdVal s s.idEx.cur.fwd1 s.idEx.cur.val1)
      (fwdVal s s.idEx.cur.fwd2 s.idEx.cur.val2) s.hi s.lo)).fault = none ∧
    (aluCall Cfg.reference.alu s.idEx.cur (aluInput s.idEx.cur (fwdVal s s.idEx.cur.fwd1 s.idEx.cur.val1)
      (fwdVal s s.idEx.cur.fwd2 s.idEx.cur.val2) s.hi s.lo)).bd = true := by decide

theorem witness_BubblePassesExecute : State.reset.idEx.cur.isNop = true := rfl

/-- One register for each write enable: `ADDU`, `MTC1`, `MOV.D` to the last pair, `MULT`, `MTHI`, `MTLO`. -/
theorem witness_WritebackCommitsResult :
    ∀ w ∈ [(0x00221821 : Word), 0x44832000, 0x46201786, 0x00220018, 0x00200011, 0x00200013],
      (dec 0x400 w).isNop = false ∧ (dec 0x400 w).isSyscall = false ∧ (dec 0x400 w).isIllegal = false ∧
      ((dec 0x400 w).writeFReg = true → (dec 0x400 w).fpDouble = true → evenReg (dec 0x400 w).dst = true) ∧
      ((dec 0x400 w).writeReg || (dec 0x400 w).writeFReg || (dec 0x400 w).hiWrite || (dec 0x400 w).loWrite) = true := by
  intro w h
  simp only [List.mem_cons, List.not_mem_nil, or_false] at h
  rcases h with rfl | rfl | rfl | rfl | rfl | rfl <;> exact ⟨rfl, rfl, rfl, by decide, rfl⟩

theorem witness_IllegalOpcodeHaltsAtOnce :
    let s : State := pipe bubble bubble bubble (illegalReg (fetched 0x400 0xD))
    s.mayTick = true ∧ s.memWb.cur.isNop = false ∧ s.memWb.cur.isSyscall = false ∧ s.memWb.cur.isIllegal = true := by decide

/-- Outside a delay slot and in one. -/
theorem witness_IllegalWordIsInert : ∀ b : Bool,
    let s : State := { pipe (fetched 0x404 0xD) bubble bubble bubble with bdPending := b }
    s.mayTick = true ∧ DataInv s ∧ s.ifId.cur = fetched 0x404 0xD ∧ decode 0xD = .error .illegal ∧
    s.idEx.cur.isNop = true ∧ s.exMem.cur.isNop = true ∧ s.memWb.cur.isNop = true := by
  intro b
  exact ⟨by cases b <;> decide, ⟨rfl, by cases b <;> decide⟩, rfl, by decide, rfl, rfl, rfl⟩

/-- The time service, with a word after the system call. -/
theorem witness_SyscallDrainTiming : ∃ s t : State, DrainInv s ∧ s.ifId.cur = fetched 0x3FC 0xC ∧ decode 0xC = .ok .syscall ∧
    s.illegalPending = false ∧ s.instrBudget = none ∧ run 4 s = .next t ∧ t.exit = false := by
  obtain ⟨t, h, he⟩ := next_of_view (p := fun t => !t.exit)
    (o := run 4 { boot [0] with ifId := { cur := fetched 0x3FC 0xC }, x := (regs [(2, 30)]).x }) rfl
  exact ⟨_, t, by constructor <;> decide, rfl, by decide, rfl, rfl, h, by simpa using he⟩

/-- A byte below and a byte above what is written, the second by wrapping. -/
theorem witness_MemoryWritesOnlyItsBytes : ∀ b ∈ [(0xFFF : Word), 0xFFFFFFFF],
    b ≠ 0x1000 ∧ (∀ k, k < 2 → b ≠ 0x1000 + BitVec.ofNat 32 k) ∧ (∀ k, k < 4 → b ≠ 0x1000 + BitVec.ofNat 32 k) ∧
    (∀ k, k < 8 → b ≠ 0x1000 + BitVec.ofNat 32 k) := by
  intro b h
  simp only [List.mem_cons, List.not_mem_nil, or_false] at h
  rcases h with rfl | rfl <;> exact ⟨by decide, by decide, by decide, by decide⟩

theorem witness_DivideResults : (regs [(1, 0x80000000), (2, 2)]).readGpr 2 ≠ 0 ∧
    ¬ ((regs [(1, 0x80000000), (2, 2)]).readGpr 1 = 0x80000000 ∧ (regs [(1, 0x80000000), (2, 2)]).readGpr 2 = 0xFFFFFFFF) := by
  decide

theorem witness_DivideFaults : (regs []).readGpr 2 = 0 ∧ (regs [(1, 0x80000000), (2, 0xFFFFFFFF)]).readGpr 1 = 0x80000000 ∧
    (regs [(1, 0x80000000), (2, 0xFFFFFFFF)]).readGpr 2 = 0xFFFFFFFF := by decide

theorem witness_JumpResults : State.reset.bdPending = false := rfl

theorem witness_BranchResults : State.reset.bdPending = false := rfl

theorem witness_ControlInDelaySlotFaults : State.bdPending { regs [] with bdPending := true } = true ∧
    Instr.isControl (.bgezal 31 0xFFFF) = true := by decide

/-- The three clauses: service 10, service 30, and one just beside each. -/
theorem witness_SyscallResults : ∀ v ∈ [(10 : Word), 30, 9, 31], (regs [(2, v)]).bdPending = false ∧ (regs [(2, v)]).x[2] = v := by
  intro v h
  simp only [List.mem_cons, List.not_mem_nil, or_false] at h
  rcases h with rfl | rfl | rfl | rfl <;> decide

/-- A word at an address that is a multiple of 4, and the halfword at the top of it. -/
theorem witness_LoadResults :
    let s : State := mems [(1, 0x1004)]
    let a := s.addrOf 1 0; let h := s.addrOf 1 2
    Memory.byte? s.mem a = some 0x80 ∧ a.toNat % 2 = 0 ∧ a.toNat % 4 = 0 ∧ Memory.byte? s.mem (a + 1) = some 0x01 ∧
    Memory.byte? s.mem (a + 2) = some 0xFF ∧ Memory.byte? s.mem (a + 3) = some 0x7F ∧
    Memory.byte? s.mem h = some 0xFF ∧ h.toNat % 2 = 0 ∧ h.toNat % 4 ≠ 0 ∧ Memory.byte? s.mem (h + 1) = some 0x7F := by decide

/-- All eight bytes around the address are defined, for each of its four places in a word. -/
theorem witness_UnalignedLoadResults : ∀ k : Fin 4,
    let s : State := mems [(1, 0x1003)]
    let a := s.addrOf 1 (1 + BitVec.ofNat 16 k.val)
    a.toNat % 4 = k.val ∧ (∀ d ≤ 3 - k.val, (Memory.byte? s.mem (a + BitVec.ofNat 32 d)).isSome = true) ∧
    (∀ d ≤ k.val, (Memory.byte? s.mem (a - BitVec.ofNat 32 d)).isSome = true) := by decide

/-- At an aligned address, at an unaligned one, and with a negative offset. -/
theorem witness_UnalignedPairLoadsWord : ∀ c ∈ [((0 : BitVec 16), (3 : BitVec 16)), (1, 4), (0xFFFE, 1)],
    let s : State := mems [(1, 0x1003)]
    let a := s.addrOf 1 c.1
    (2 : RegIdx) ≠ 0 ∧ (2 : RegIdx) ≠ 1 ∧ c.2.toInt = c.1.toInt + 3 ∧
    (∀ k < 4, (Memory.byte? s.mem (a + BitVec.ofNat 32 k)).isSome = true) := by
  intro c h
  simp only [List.mem_cons, List.not_mem_nil, or_false] at h
  rcases h with rfl | rfl | rfl <;> exact ⟨by decide, by decide, by decide, by decide⟩

/-- At the top of the address space, and at a halfword that is no word. -/
theorem witness_StoreResults : ((regs []).addrOf 0 0xFFFC).toNat % 4 = 0 ∧ ((regs []).addrOf 0 0xFFFC).toNat % 2 = 0 ∧
    ((regs []).addrOf 0 0xFFFE).toNat % 2 = 0 := by decide

/-- The lane counts at both ends of a word, and an address outside the lanes. -/
theorem witness_UnalignedStoreResults : ∀ k : Fin 4,
    let a := (regs []).addrOf 0 (BitVec.ofNat 16 k.val)
    a.toNat % 4 = k.val ∧ 0 < 4 - a.toNat % 4 ∧ 0 < a.toNat % 4 + 1 ∧
    (∀ j < 4, (0x1000 : Word) ≠ a + BitVec.ofNat 32 j ∧ (0x1000 : Word) ≠ a - BitVec.ofNat 32 j) := by decide

/-- An odd address, a halfword that is no word, and the three clauses on a byte with no value. -/
theorem witness_DataAccessFaults :
    ((regs []).addrOf 0 0xFFFF).toNat % 2 ≠ 0 ∧ ((regs []).addrOf 0 2).toNat % 4 ≠ 0 ∧
    (∀ imm ∈ [(1 : BitVec 16), 2, 4], Memory.byte? (regs []).mem ((regs []).addrOf 0 imm) = none) ∧
    ((regs []).addrOf 0 2).toNat % 2 = 0 ∧ ((regs []).addrOf 0 4).toNat % 4 = 0 := by
  exact ⟨by decide, by decide, fun _ _ => rfl, by decide, by decide⟩

theorem witness_DoubleFloatResults : evenReg 0 = true ∧ evenReg 30 = true ∧ evenReg 2 = true := by decide

theorem witness_OddDoubleRegisterFaults : Instr.wellFormed (.movD 31 0) = false := by decide

/-- A register instruction, the time service, a float word, and HI and LO. -/
theorem witness_RegisterFrame : ∀ i ∈ [Instr.addu 3 1 2, .mtc1 3 4, .mult 1 2], ∃ t, exec i (regs []) = .next t := by
  intro i hi
  simp only [List.mem_cons, List.not_mem_nil, or_false] at hi
  rcases hi with rfl | rfl | rfl <;> exact ⟨_, rfl⟩

/-- Each shape of store. -/
theorem witness_MemoryFrame : ∀ i ∈ [Instr.sb 2 1 3, .sh 2 1 2, .sw 2 1 0, .swl 2 1 1, .swr 2 1 1, .swc1 2 1 0],
    ∃ t, exec i (mems [(1, 0x1000)]) = .next t ∧ (i.storedBytes (mems [(1, 0x1000)])).length ≠ 0 := by
  intro i hi
  simp only [List.mem_cons, List.not_mem_nil, or_false] at hi
  rcases hi with rfl | rfl | rfl | rfl | rfl | rfl <;> exact ⟨_, rfl, by decide⟩

theorem witness_ControlStateFrame : ∀ i ∈ [Instr.beq 0 0 1, .jalr 31 1, .lwc1 2 1 0, .syscall],
    ∃ t, exec i (mems [(1, 0x1000), (2, 10)]) = .next t := by
  intro i hi
  simp only [List.mem_cons, List.not_mem_nil, or_false] at hi
  rcases hi with rfl | rfl | rfl | rfl <;> exact ⟨_, rfl⟩

end Sys2Proof.Tests
end

section
/-! SUPPORT. The proofs of the family 10_state.md: the state after a reboot, what each stage does to registers, memory and counters,
and what a step therefore keeps (10_state.md R13 to R16, R24, R25, R39, R42, R43). -/

namespace Sys2Proof.Machine

/-! ## The image of a reboot -/

/-- The pairs of an image written in order, over memory `m` (70_reset_and_hazards.md R306). -/
def Memory.writeImage (m : Memory) (image : List (Word × Byte)) : Memory :=
  image.foldl (fun m c => Memory.write1 m c.1 c.2) m

theorem imageMemory_eq (image : List (Word × Byte)) : imageMemory image = Memory.writeImage [] image := rfl

theorem Memory.writeImage_cons (m : Memory) (c : Word × Byte) (image : List (Word × Byte)) :
    Memory.writeImage m (c :: image) = Memory.writeImage (Memory.write1 m c.1 c.2) image := rfl

/-- An address the image does not list keeps its byte. -/
theorem Memory.byte?_writeImage_other {image : List (Word × Byte)} {a : Word} (h : a ∉ image.map (·.1)) (m : Memory) :
    Memory.byte? (Memory.writeImage m image) a = Memory.byte? m a := by
  induction image generalizing m with
  | nil => rfl
  | cons c image ih =>
    rw [List.map_cons, List.mem_cons, not_or] at h
    obtain ⟨hc, himage⟩ := h
    rw [Memory.writeImage_cons, ih himage, Memory.byte?_write1_other hc]

/-- Where no address is listed twice, every listed address has its listed byte. -/
theorem Memory.byte?_writeImage_mem {image : List (Word × Byte)} (hd : (image.map (·.1)).Nodup) {c : Word × Byte}
    (h : c ∈ image) (m : Memory) : Memory.byte? (Memory.writeImage m image) c.1 = some c.2 := by
  induction image generalizing m with
  | nil => cases h
  | cons d image ih =>
    rw [List.map_cons, List.nodup_cons] at hd
    obtain ⟨hfresh, hd⟩ := hd
    rw [Memory.writeImage_cons]
    cases h with
    | head => rw [Memory.byte?_writeImage_other hfresh, Memory.byte?_write1_same]
    | tail _ h => exact ih hd h _

/-! ## The state after a reboot -/

/-- A successful reboot answers `State.afterReboot` with the image as memory (70_reset_and_hazards.md R300). -/
theorem reboot_some {image : List (Word × Byte)} {bootPC : Word} {mode : ForwardMode} {budget : Option Nat} {s : State} :
    reboot (some image) bootPC mode budget = .ok s ↔ s = State.afterReboot (imageMemory image) bootPC mode budget := by
  rw [reboot, Except.ok.injEq, eq_comm]

/-- The drain discipline holds of an empty pipe with no pending flag. -/
theorem drainInv_of_empty {s : State} (h1 : s.ifId.cur = bubble) (h2 : s.idEx.cur = bubble) (h3 : s.exMem.cur = bubble)
    (h4 : s.memWb.cur = bubble) (hs : s.syscallPending = false) (hi : s.illegalPending = false) (hb : s.bdPending = false) :
    DrainInv s := by
  constructor <;> simp [h1, h2, h3, h4, hs, hi, hb, bubble]

/-- `OperandsInv` asks nothing while Execute holds a bubble. -/
theorem operandsInv_of_bubble {s : State} (h : s.idEx.cur.isNop = true) : OperandsInv s := by
  have hreal : s.idEx.cur.isNop ≠ false := by simp [h]
  exact ⟨fun hn => absurd hn hreal, fun hn => absurd hn hreal, fun hn => absurd hn hreal⟩

/-- The three invariants after a reboot with a canonical memory (10_state.md R42). -/
theorem State.afterReboot_invariants {image : Memory} (hm : Memory.wf image = true) (bootPC : Word) (mode : ForwardMode)
    (budget : Option Nat) : DataInv (State.afterReboot image bootPC mode budget) ∧
      DrainInv (State.afterReboot image bootPC mode budget) ∧ OperandsInv (State.afterReboot image bootPC mode budget) :=
  ⟨⟨hm, Vector.getElem_replicate _⟩, drainInv_of_empty rfl rfl rfl rfl rfl rfl rfl, operandsInv_of_bubble rfl⟩

/-- Settles O7: every field but the two register files and memory is the literal of `State.afterReboot`; memory is the image by the
two laws of `Memory.writeImage`. -/
theorem rebootSetsResetValues : Obligations.RebootSetsResetValues := by
  intro image bootPC mode budget hd
  have hlisted : ∀ c ∈ image, Memory.byte? (imageMemory image) c.1 = some c.2 :=
    fun c hc => Memory.byte?_writeImage_mem hd hc []
  have hunlisted : ∀ a, a ∉ image.map (·.1) → Memory.byte? (imageMemory image) a = none :=
    fun a ha => Memory.byte?_writeImage_other ha []
  exact ⟨_, reboot_some.mpr rfl, fun i => Vector.getElem_replicate _, fun i => Vector.getElem_replicate _,
    rfl, rfl, rfl, rfl, rfl, rfl, rfl, rfl, rfl, rfl, rfl, rfl, rfl, rfl, rfl, rfl, rfl, rfl, rfl, rfl, rfl, rfl, rfl, rfl, rfl,
    rfl, rfl, rfl, rfl, hlisted, hunlisted⟩

/-- Settles O8: a reboot's memory is canonical, `State.reset` is the reboot with the empty image. -/
theorem invariantsHoldAfterReboot : Obligations.InvariantsHoldAfterReboot := by
  have hreboot : ∀ (image : List (Word × Byte)) (bootPC : Word) (mode : ForwardMode) (budget : Option Nat) (s : State),
      reboot (some image) bootPC mode budget = .ok s → DataInv s ∧ DrainInv s ∧ OperandsInv s := by
    intro image bootPC mode budget s h
    rw [reboot_some.mp h]
    exact State.afterReboot_invariants (imageMemory_wf image) bootPC mode budget
  exact ⟨hreboot, hreboot [] _ _ _ _ Cfg.reference_reboot⟩

/-! ## What the stages do to registers and memory (10_state.md R43) -/

/-- The registers and memory are the same; pipeline registers, flags, pc and counters may differ. -/
structure SameData (s t : State) : Prop where
  x : t.x = s.x
  f : t.f = s.f
  hi : t.hi = s.hi
  lo : t.lo = s.lo
  mem : t.mem = s.mem

theorem SameData.trans {s t u : State} (h : SameData s t) (k : SameData t u) : SameData s u :=
  ⟨k.x.trans h.x, k.f.trans h.f, k.hi.trans h.hi, k.lo.trans h.lo, k.mem.trans h.mem⟩

theorem SameData.dataInv {s t : State} (h : SameData s t) (hs : DataInv s) : DataInv t :=
  ⟨h.mem ▸ hs.memWf, by simp only [h.x, hs.x0]⟩

theorem exStep_sameData {c : Cfg} {s t : State} (h : exStep c s = .ok t) : SameData s t := by
  rcases exStep_cases h with ⟨-, rfl⟩ | ⟨-, -, rfl⟩ | ⟨-, -, -, -, rfl⟩ | ⟨-, -, -, p, u, hp, rfl⟩
  · constructor <;> simp
  · constructor <;> simp
  · constructor <;> simp
  · obtain ⟨out, -, -, -, -, rfl⟩ := execPass_cases hp
    constructor <;> split <;> simp

theorem idStep_sameData {c : Cfg} {s t : State} (h : idStep c s = .ok t) : SameData s t := by
  rcases idStep_cases h with ⟨-, rfl⟩ | ⟨-, -, rfl⟩ | ⟨-, d, -, -, ⟨-, rfl⟩ | ⟨-, rfl⟩⟩ <;> constructor <;> simp

theorem ifStep_sameData {s t : State} (h : ifStep s = .ok t) : SameData s t := by
  rcases ifStep_cases h with ⟨-, w, -, rfl⟩ | ⟨-, -, rfl⟩ | ⟨-, -, rfl⟩ <;> constructor <;> simp

theorem State.commit_sameData (s : State) : SameData s s.commit := by constructor <;> simp

/-- Only Writeback and the Memory stage change registers and memory: a tick leaves what Writeback left, with the memory that the
Memory stage's pass answers unless Writeback ended the run. -/
theorem tick_sameData {c : Cfg} {s t : State} (h : tick c s = .ok t) :
    ∃ s1, wbStep c s = .ok s1 ∧
      ((s1.exit = true ∧ SameData s1 t) ∨
       (s1.exit = false ∧ ∃ p m, memPass c.memop s1.exMem.cur s1.mem = .ok (p, m) ∧ SameData (s1.withMem m) t)) := by
  obtain ⟨s1, h1, ⟨he, rfl⟩ | ⟨he, s2, s3, s4, s5, h2, h3, h4, h5, rfl⟩⟩ := tick_cases h
  · exact ⟨s1, h1, .inl ⟨he, ⟨rfl, rfl, rfl, rfl, rfl⟩⟩⟩
  · obtain ⟨p, m, hp, rfl⟩ := memStep_ok h2
    have hmem : SameData (s1.withMem m) ((s1.putMemWb p).withMem m) := ⟨rfl, rfl, rfl, rfl, rfl⟩
    have hrest := ((exStep_sameData h3).trans (idStep_sameData h4)).trans ((ifStep_sameData h5).trans s5.commit_sameData)
    exact ⟨s1, h1, .inr ⟨he, p, m, hp, hmem.trans hrest⟩⟩

/-! ## Memory stays canonical and `x[0]` zero -/

/-- A handler that checks alignment succeeds only as what follows the check (45_reference_isa_int.md R216). -/
theorem ok_of_aligned {b : Bool} {x : Except Fault MemOut} {r : Fault} {o : MemOut}
    (h : (if b then x else .error r) = .ok o) : x = .ok o := by
  cases b with
  | false => cases h
  | true => exact h

/-- A load's handler answers the memory it was given. -/
theorem mem_eq_of_read {α : Type} {r : Except Fault α} {m : Memory} {lo hi : α → Word} {o : MemOut}
    (h : (do let v ← r; return { mem := m, resLo := lo v, resHi := hi v }) = Except.ok o) : o.mem = m := by
  cases r with
  | error e => cases h
  | ok v => cases h; rfl

/-- Every reference memory handler keeps memory canonical: a load leaves it as it is, a store writes bytes, a word or lanes. -/
theorem refMemop_memWf {id : Mnemonic} {i : MemIn} {m : Memory} {o : MemOut} (h : refMemop id i m = .ok o)
    (hm : Memory.wf m = true) : Memory.wf o.mem = true := by
  cases id with
  | lb | lbu | lwl | lwr => rwa [mem_eq_of_read h]
  | lh | lhu | lw | lwc1 => rwa [mem_eq_of_read (ok_of_aligned h)]
  | sb => cases h; exact Memory.wf_write1 _ _ hm
  | sh => cases ok_of_aligned h; exact Memory.wf_write2 _ _ hm
  | sw | swc1 => cases ok_of_aligned h; exact Memory.wf_write4 _ _ hm
  | swl | swr => cases h; exact Memory.wf_writeLanes _ _ hm
  | _ => cases h

/-- The Memory stage's pass keeps memory canonical. -/
theorem memPass_memWf {p q : PipeReg} {m n : Memory} (h : memPass refMemop p m = .ok (q, n)) (hm : Memory.wf m = true) :
    Memory.wf n = true := by
  rcases memPass_cases h with ⟨-, rfl, -⟩ | ⟨-, -, -, id, o, -, ho, -, rfl⟩
  · exact hm
  · exact refMemop_memWf ho hm

/-- Forcing `x[0]` on a canonical memory establishes the data invariant (43_memory_writeback.md R154). -/
theorem State.forceX0_dataInv {s : State} (h : Memory.wf s.mem = true) : DataInv s.forceX0 :=
  ⟨h, by simp⟩

/-- Writeback keeps the data invariant: it ends by forcing `x[0]`, or halts with all data as it was. -/
theorem wbStep_dataInv {c : Cfg} {s t : State} (h : wbStep c s = .ok t) (hs : DataInv s) : DataInv t := by
  rcases wbStep_cases h with ⟨-, rfl⟩ | ⟨-, -, u, e, ho, rfl⟩ | ⟨-, -, -, rfl⟩ | ⟨-, -, -, rfl⟩
  · exact State.forceX0_dataInv hs.memWf
  · have hu : Memory.wf u.mem = true := SysProg.run_memWf ho hs.memWf
    exact State.forceX0_dataInv hu
  · exact ⟨hs.memWf, hs.x0⟩
  · exact State.forceX0_dataInv (by simpa using hs.memWf)

/-- Settles O9: Writeback keeps the invariant, the Memory stage keeps memory canonical, and nothing after them changes data. -/
theorem stepKeepsDataInvariant : Obligations.StepKeepsDataInvariant := by
  intro s t hs h
  obtain ⟨-, -, -, htick⟩ := step_next.mp h
  obtain ⟨s1, h1, ⟨-, hd⟩ | ⟨-, p, m, hp, hd⟩⟩ := tick_sameData htick
  · exact hd.dataInv (wbStep_dataInv h1 hs)
  · obtain ⟨hm1, hx1⟩ := wbStep_dataInv h1 hs
    exact hd.dataInv ⟨memPass_memWf hp hm1, hx1⟩

/-! ## A bubble in Writeback -/

theorem wbStep_of_bubble {c : Cfg} {s : State} (h : s.memWb.cur.isNop = true) : wbStep c s = .ok s.forceX0 := if_pos h

/-- Forcing `x[0]` changes no other general register. -/
theorem State.forceX0_getElem (s : State) (i : RegIdx) : s.forceX0.x[i] = if i = 0 then 0 else s.x[i] := by
  rw [State.forceX0_x]
  by_cases h : i = 0
  · subst h; simp
  · have h0 : 0 ≠ i.val := fun hv => h (Fin.ext hv.symm)
    simp [h, h0]

/-- The Memory stage's pass of a bubble, or of an instruction with no memory operation, leaves memory alone
(43_memory_writeback.md R144). -/
theorem memPass_mem_of_idle {memop : Mnemonic → MemIn → Memory → Except Fault MemOut} {p q : PipeReg} {m n : Memory}
    (h : memPass memop p m = .ok (q, n)) (hp : p.isNop = true ∨ p.memOp = false) : n = m := by
  rcases memPass_cases h with ⟨-, hn, -⟩ | ⟨hreal, hop, -⟩
  · exact hn
  · simp [hreal, hop] at hp

/-- Settles O16: Writeback of a bubble only forces `x[0]`, so the tick goes on and its data is that state's with the memory that the
Memory stage answers. -/
theorem bubblesWriteNothing : Obligations.BubblesWriteNothing := by
  intro s t h hn
  obtain ⟨-, -, hexit, htick⟩ := step_next.mp h
  obtain ⟨s1, h1, hcases⟩ := tick_sameData htick
  cases (wbStep_of_bubble hn).symm.trans h1
  rcases hcases with ⟨he, -⟩ | ⟨-, p, m, hp, hd⟩
  · rw [State.forceX0_exit, hexit] at he
    cases he
  · refine ⟨fun i => ?_, hd.f, hd.hi, hd.lo, fun hidle => ?_⟩
    · simp only [hd.x]
      exact s.forceX0_getElem i
    · exact hd.mem.trans (memPass_mem_of_idle hp hidle)

/-! ## What the stages count (10_state.md R24, R25, R39) -/

/-- From `s` to `t`, `cycles` ticks and `fetches` words have been counted, no other counter has fallen, and the model arguments, the
boot flag and the recorded fault are the same. -/
structure CountFrame (cycles fetches : Nat) (s t : State) : Prop where
  nCycles : t.nCycles = s.nCycles + cycles
  nFetched : t.nFetched = s.nFetched + fetches
  nCondBranch : s.nCondBranch ≤ t.nCondBranch
  nJal : s.nJal ≤ t.nJal
  nJr : s.nJr ≤ t.nJr
  nFp : s.nFp ≤ t.nFp
  nLoad : s.nLoad ≤ t.nLoad
  nStore : s.nStore ≤ t.nStore
  fwdMode : t.fwdMode = s.fwdMode
  instrBudget : t.instrBudget = s.instrBudget
  booted : t.booted = s.booted
  fault : t.fault = s.fault

theorem CountFrame.trans {a b a' b' : Nat} {s t u : State} (h : CountFrame a b s t) (k : CountFrame a' b' t u) :
    CountFrame (a + a') (b + b') s u where
  nCycles := by rw [k.nCycles, h.nCycles, Nat.add_assoc]
  nFetched := by rw [k.nFetched, h.nFetched, Nat.add_assoc]
  nCondBranch := h.nCondBranch.trans k.nCondBranch
  nJal := h.nJal.trans k.nJal
  nJr := h.nJr.trans k.nJr
  nFp := h.nFp.trans k.nFp
  nLoad := h.nLoad.trans k.nLoad
  nStore := h.nStore.trans k.nStore
  fwdMode := k.fwdMode.trans h.fwdMode
  instrBudget := k.instrBudget.trans h.instrBudget
  booted := k.booted.trans h.booted
  fault := k.fault.trans h.fault

theorem SysFrame.countFrame {s t : State} (h : SysFrame s t) : CountFrame 0 0 s t := by
  have hloads := h.loads
  have hstores := h.stores
  rw [h.same]
  constructor <;> simp [hloads, hstores]

theorem wbStep_countFrame {c : Cfg} {s t : State} (h : wbStep c s = .ok t) : CountFrame 0 0 s t := by
  rcases wbStep_cases h with ⟨-, rfl⟩ | ⟨-, -, u, e, ho, rfl⟩ | ⟨-, -, -, rfl⟩ | ⟨-, -, -, rfl⟩
  · constructor <;> simp
  · have hafter : CountFrame 0 0 u (u.afterSyscall s.memWb.cur e).forceX0 := by constructor <;> simp
    exact (SysProg.run_frame ho).countFrame.trans hafter
  · constructor <;> simp
  · constructor <;> simp

theorem memStep_countFrame {c : Cfg} {s t : State} (h : memStep c s = .ok t) : CountFrame 0 0 s t := by
  obtain ⟨p, m, -, rfl⟩ := memStep_ok h
  constructor <;> simp

/-- Only Execute's bump of the statistics categories raises a counter of R25 (42_execute_delay_slot.md R136). -/
theorem exStep_countFrame {c : Cfg} {s t : State} (h : exStep c s = .ok t) : CountFrame 0 0 s t := by
  rcases exStep_cases h with ⟨-, rfl⟩ | ⟨-, -, rfl⟩ | ⟨-, -, -, -, rfl⟩ | ⟨-, -, -, p, u, hp, rfl⟩
  · constructor <;> simp
  · constructor <;> simp
  · constructor <;> simp
  · obtain ⟨out, -, -, -, -, rfl⟩ := execPass_cases hp
    constructor <;> split <;> simp

theorem idStep_countFrame {c : Cfg} {s t : State} (h : idStep c s = .ok t) : CountFrame 0 0 s t := by
  rcases idStep_cases h with ⟨-, rfl⟩ | ⟨-, -, rfl⟩ | ⟨-, d, -, -, ⟨-, rfl⟩ | ⟨-, rfl⟩⟩ <;> constructor <;> simp

/-- Fetch counts one word when it fetches, and none when it holds or clears (40_clock_fetch.md R89). -/
theorem ifStep_countFrame {s t : State} (h : ifStep s = .ok t) : CountFrame 0 0 s t ∨ CountFrame 0 1 s t := by
  rcases ifStep_cases h with ⟨-, w, -, rfl⟩ | ⟨-, -, rfl⟩ | ⟨-, -, rfl⟩
  · right; constructor <;> simp
  · left; constructor <;> simp
  · left; constructor <;> simp

theorem State.countCycle_countFrame (s : State) : CountFrame 1 0 s s.countCycle := by constructor <;> simp

theorem State.commit_countFrame (s : State) : CountFrame 1 0 s s.commit := by constructor <;> simp

/-- A tick counts itself and fetches one word or none (40_clock_fetch.md R85, R93). -/
theorem tick_countFrame {c : Cfg} {s t : State} (h : tick c s = .ok t) : CountFrame 1 0 s t ∨ CountFrame 1 1 s t := by
  obtain ⟨s1, h1, ⟨-, rfl⟩ | ⟨-, s2, s3, s4, s5, h2, h3, h4, h5, rfl⟩⟩ := tick_cases h
  · exact .inl ((wbStep_countFrame h1).trans s1.countCycle_countFrame)
  · have hback := ((wbStep_countFrame h1).trans (memStep_countFrame h2)).trans
      ((exStep_countFrame h3).trans (idStep_countFrame h4))
    exact (ifStep_countFrame h5).imp (fun hf => (hback.trans hf).trans s5.commit_countFrame)
      (fun hf => (hback.trans hf).trans s5.commit_countFrame)

/-- Settles O14: the count of the tick, read off `CountFrame` field by field. -/
theorem stepCountsOneCycle : Obligations.StepCountsOneCycle := by
  intro s t h
  obtain ⟨-, -, -, htick⟩ := step_next.mp h
  have hfetched : t.nFetched = s.nFetched ∨ t.nFetched = s.nFetched + 1 :=
    (tick_countFrame htick).imp (·.nFetched) (·.nFetched)
  obtain ⟨_, hk⟩ : ∃ k, CountFrame 1 k s t := (tick_countFrame htick).elim (⟨0, ·⟩) (⟨1, ·⟩)
  exact ⟨hk.nCycles, hfetched, hk.nCondBranch, hk.nJal, hk.nJr, hk.nFp, hk.nLoad, hk.nStore, hk.fwdMode, hk.instrBudget,
    hk.booted, hk.fault⟩

end Sys2Proof.Machine
end

section
/-! SUPPORT. The proofs of the family 20_memory.md: a write is a list of bytes placed from its address, a read is a sequence of byte
reads, and addresses wrap (20_memory.md R47, R49, R55). -/

namespace Sys2Proof.Machine

/-! ## Bytes placed from an address (20_memory.md R47) -/

/-- Offsets below 2^32 from one address reach different addresses, also where they wrap. -/
theorem offset_inj (a : Word) {j k : Nat} (hj : j < 2 ^ 32) (hk : k < 2 ^ 32)
    (h : a + BitVec.ofNat 32 j = a + BitVec.ofNat 32 k) : j = k := by
  have hofNat : BitVec.ofNat 32 j = BitVec.ofNat 32 k := BitVec.add_right_inj a |>.mp h
  have htoNat := congrArg BitVec.toNat hofNat
  rwa [BitVec.toNat_ofNat, BitVec.toNat_ofNat, Nat.mod_eq_of_lt hj, Nat.mod_eq_of_lt hk] at htoNat

theorem offset_zero (a : Word) : a + BitVec.ofNat 32 0 = a := BitVec.add_zero a

theorem offset_add (a : Word) (i j : Nat) : a + BitVec.ofNat 32 i + BitVec.ofNat 32 j = a + BitVec.ofNat 32 (i + j) := by
  rw [BitVec.add_assoc, BitVec.ofNat_add]

/-- The bytes at the rising addresses from `a`, modulo 2^32. -/
def placedFrom (a : Word) (bs : List Byte) : List (Word × Byte) := bs.mapIdx fun k b => (a + BitVec.ofNat 32 k, b)

theorem placedFrom_addresses (a : Word) (bs : List Byte) :
    (placedFrom a bs).map (·.1) = (List.range bs.length).map fun k => a + BitVec.ofNat 32 k :=
  List.ext_getElem (by simp [placedFrom]) (by simp [placedFrom])

theorem placedFrom_addresses_nodup (a : Word) {bs : List Byte} (h : bs.length ≤ 2 ^ 32) :
    ((placedFrom a bs).map (·.1)).Nodup := by
  rw [placedFrom_addresses]
  refine List.Nodup.map_on (fun j hj k hk => ?_) List.nodup_range
  rw [List.mem_range] at hj hk
  exact offset_inj a (hj.trans_le h) (hk.trans_le h)

/-- Each placed byte is found at its address. -/
theorem Memory.byte?_placedFrom (m : Memory) (a : Word) {bs : List Byte} (hlen : bs.length ≤ 2 ^ 32) {k : Nat} {b : Byte}
    (h : bs[k]? = some b) : Memory.byte? (Memory.writeImage m (placedFrom a bs)) (a + BitVec.ofNat 32 k) = some b := by
  obtain ⟨hk, hb⟩ := List.getElem?_eq_some_iff.mp h
  have hmem : (a + BitVec.ofNat 32 k, b) ∈ placedFrom a bs := List.mem_mapIdx.mpr ⟨k, hk, by rw [hb]⟩
  exact Memory.byte?_writeImage_mem (placedFrom_addresses_nodup a hlen) hmem m

/-- An address that no placed byte reaches keeps its byte. -/
theorem Memory.byte?_placedFrom_other (m : Memory) {a b : Word} {bs : List Byte}
    (h : ∀ k, k < bs.length → b ≠ a + BitVec.ofNat 32 k) :
    Memory.byte? (Memory.writeImage m (placedFrom a bs)) b = Memory.byte? m b := by
  refine Memory.byte?_writeImage_other (fun hb => ?_) m
  rw [placedFrom_addresses, List.mem_map] at hb
  obtain ⟨k, hk, rfl⟩ := hb
  exact h k (List.mem_range.mp hk) rfl

/-! ## The bytes a write places (20_memory.md R49) -/

/-- The two bytes of a halfword, lowest address first. -/
def bytesOfHalf (v : BitVec 16) : List Byte := [v.extractLsb' 8 8, v.extractLsb' 0 8]

/-- The eight bytes of a double word, lowest address first: the high word, then the low. -/
def bytesOfDouble (v : DWord) : List Byte := bytesOfWord (high32 v) ++ bytesOfWord (low32 v)

theorem length_bytesOfHalf (v : BitVec 16) : (bytesOfHalf v).length = 2 := rfl

theorem length_bytesOfWord (v : Word) : (bytesOfWord v).length = 4 := rfl

theorem length_bytesOfDouble (v : DWord) : (bytesOfDouble v).length = 8 := rfl

theorem getElem?_bytesOfHalf (v : BitVec 16) {k : Nat} (hk : k < 2) :
    (bytesOfHalf v)[k]? = some (v.extractLsb' (8 - 8 * k) 8) := by
  interval_cases k <;> rfl

/-- Byte `k` in memory order is the field of the word that the big-endian order gives it. -/
theorem byteOfWord_eq_extract (v : Word) (k : Nat) : byteOfWord v k = v.extractLsb' (24 - 8 * k) 8 := by
  have hlo : 24 - 8 * k = 8 * (3 - k) := by omega
  apply BitVec.eq_of_toNat_eq
  rw [toNat_byteOfWord, BitVec.extractLsb'_toNat, Nat.shiftRight_eq_div_pow, hlo]

theorem getElem?_bytesOfWord (v : Word) {k : Nat} (hk : k < 4) :
    (bytesOfWord v)[k]? = some (v.extractLsb' (24 - 8 * k) 8) := by
  have h : (bytesOfWord v)[k]? = some (byteOfWord v k) := by
    interval_cases k <;> rfl
  rw [h, byteOfWord_eq_extract]

/-- A field of a field is a field. -/
theorem extract_extract {w : Nat} (x : BitVec w) {lo len lo' len' : Nat} (h : lo' + len' ≤ len) :
    (x.extractLsb' lo len).extractLsb' lo' len' = x.extractLsb' (lo + lo') len' := by
  ext i hi
  have hin : lo' + i < len := by omega
  simp [hin, Nat.add_assoc]

/-- Byte `k` of the high word is byte `k` of the double word. -/
theorem extract_high32 (v : DWord) {k : Nat} (hk : k < 4) :
    (high32 v).extractLsb' (24 - 8 * k) 8 = v.extractLsb' (56 - 8 * k) 8 := by
  have hfits : 24 - 8 * k + 8 ≤ 32 := by omega
  have hlo : 32 + (24 - 8 * k) = 56 - 8 * k := by omega
  rw [high32, extract_extract v hfits, hlo]

/-- Byte `k` of the low word is byte `4 + k` of the double word. -/
theorem extract_low32 (v : DWord) {k : Nat} (hk : k < 4) :
    (low32 v).extractLsb' (24 - 8 * k) 8 = v.extractLsb' (56 - 8 * (4 + k)) 8 := by
  have hfits : 24 - 8 * k + 8 ≤ 32 := by omega
  have hlo : 0 + (24 - 8 * k) = 56 - 8 * (4 + k) := by omega
  rw [low32, extract_extract v hfits, hlo]

theorem getElem?_bytesOfDouble (v : DWord) {k : Nat} (hk : k < 8) :
    (bytesOfDouble v)[k]? = some (v.extractLsb' (56 - 8 * k) 8) := by
  by_cases hhigh : k < 4
  · rw [bytesOfDouble, List.getElem?_append_left hhigh, getElem?_bytesOfWord _ hhigh, extract_high32 v hhigh]
  · obtain ⟨j, rfl⟩ := Nat.exists_eq_add_of_le (not_lt.mp hhigh)
    have hlow : j < 4 := by omega
    rw [bytesOfDouble, List.getElem?_append_right (Nat.le_add_right 4 j), length_bytesOfWord, Nat.add_sub_cancel_left,
      getElem?_bytesOfWord _ hlow, extract_low32 v hlow]

/-! Each write places its bytes from its address. -/

theorem placedFrom_cons (a : Word) (b : Byte) (bs : List Byte) :
    placedFrom a (b :: bs) = (a, b) :: bs.mapIdx fun k b => (a + BitVec.ofNat 32 (k + 1), b) := by
  rw [placedFrom, List.mapIdx_cons, offset_zero]

theorem Memory.write2_eq_placed (m : Memory) (a : Word) (v : BitVec 16) :
    Memory.write2 m a v = Memory.writeImage m (placedFrom a (bytesOfHalf v)) := by
  rw [bytesOfHalf, placedFrom_cons]; rfl

theorem Memory.write4_eq_placed (m : Memory) (a v : Word) :
    Memory.write4 m a v = Memory.writeImage m (placedFrom a (bytesOfWord v)) := by
  rw [bytesOfWord, placedFrom_cons]; rfl

theorem Memory.writeImage_append (m : Memory) (image rest : List (Word × Byte)) :
    Memory.writeImage m (image ++ rest) = Memory.writeImage (Memory.writeImage m image) rest := List.foldl_append

theorem placedFrom_append (a : Word) (bs cs : List Byte) :
    placedFrom a (bs ++ cs) = placedFrom a bs ++ placedFrom (a + BitVec.ofNat 32 bs.length) cs := by
  simp only [placedFrom, List.mapIdx_append, offset_add, Nat.add_comm]

/-- A double word is written as its high word, then its low word four addresses above. -/
theorem Memory.write8_eq_placed (m : Memory) (a : Word) (v : DWord) :
    Memory.write8 m a v = Memory.writeImage m (placedFrom a (bytesOfDouble v)) := by
  rw [bytesOfDouble, placedFrom_append, Memory.writeImage_append, ← Memory.write4_eq_placed, ← Memory.write4_eq_placed]
  rfl

/-! What each write leaves at its own bytes, and at all others. -/

theorem Memory.byte?_write2 (m : Memory) (a : Word) (v : BitVec 16) {k : Nat} (hk : k < 2) :
    Memory.byte? (Memory.write2 m a v) (a + BitVec.ofNat 32 k) = some (v.extractLsb' (8 - 8 * k) 8) := by
  rw [Memory.write2_eq_placed]
  exact Memory.byte?_placedFrom m a (by simp [length_bytesOfHalf]) (getElem?_bytesOfHalf v hk)

theorem Memory.byte?_write4 (m : Memory) (a v : Word) {k : Nat} (hk : k < 4) :
    Memory.byte? (Memory.write4 m a v) (a + BitVec.ofNat 32 k) = some (v.extractLsb' (24 - 8 * k) 8) := by
  rw [Memory.write4_eq_placed]
  exact Memory.byte?_placedFrom m a (by simp [length_bytesOfWord]) (getElem?_bytesOfWord v hk)

theorem Memory.byte?_write8 (m : Memory) (a : Word) (v : DWord) {k : Nat} (hk : k < 8) :
    Memory.byte? (Memory.write8 m a v) (a + BitVec.ofNat 32 k) = some (v.extractLsb' (56 - 8 * k) 8) := by
  rw [Memory.write8_eq_placed]
  exact Memory.byte?_placedFrom m a (by simp [length_bytesOfDouble]) (getElem?_bytesOfDouble v hk)

theorem Memory.byte?_write2_other (m : Memory) {a b : Word} (v : BitVec 16) (h : ∀ k, k < 2 → b ≠ a + BitVec.ofNat 32 k) :
    Memory.byte? (Memory.write2 m a v) b = Memory.byte? m b := by
  rw [Memory.write2_eq_placed]
  exact Memory.byte?_placedFrom_other m h

theorem Memory.byte?_write4_other (m : Memory) {a b : Word} (v : Word) (h : ∀ k, k < 4 → b ≠ a + BitVec.ofNat 32 k) :
    Memory.byte? (Memory.write4 m a v) b = Memory.byte? m b := by
  rw [Memory.write4_eq_placed]
  exact Memory.byte?_placedFrom_other m h

theorem Memory.byte?_write8_other (m : Memory) {a b : Word} (v : DWord) (h : ∀ k, k < 8 → b ≠ a + BitVec.ofNat 32 k) :
    Memory.byte? (Memory.write8 m a v) b = Memory.byte? m b := by
  rw [Memory.write8_eq_placed]
  exact Memory.byte?_placedFrom_other m h

/-! ## Reading placed bytes (20_memory.md R49) -/

/-- A read of two bytes that have values. -/
theorem Memory.read2_of_bytes {m : Memory} {a : Word} {b0 b1 : Byte} (h0 : Memory.byte? m a = some b0)
    (h1 : Memory.byte? m (a + 1) = some b1) : Memory.read2 m a = .ok (b0 ++ b1) := by
  rw [Memory.read2, Memory.read1_ok.mpr h0, Memory.read1_ok.mpr h1]; rfl

theorem half_append_bytes (v : BitVec 16) : v.extractLsb' 8 8 ++ v.extractLsb' 0 8 = v :=
  (BitVec.extractLsb'_append_extractLsb'_eq_extractLsb' (by rfl)).trans BitVec.extractLsb'_eq_self

/-- A halfword is read where its two bytes stand big-endian. -/
theorem Memory.read2_of_half {m : Memory} {a : Word} {v : BitVec 16} (hhigh : Memory.byte? m a = some (v.extractLsb' 8 8))
    (hlow : Memory.byte? m (a + 1) = some (v.extractLsb' 0 8)) : Memory.read2 m a = .ok v := by
  rw [Memory.read2_of_bytes hhigh hlow, half_append_bytes]

/-- A read of four bytes that have values. -/
theorem Memory.read4_of_bytes {m : Memory} {a : Word} {b0 b1 b2 b3 : Byte} (h0 : Memory.byte? m a = some b0)
    (h1 : Memory.byte? m (a + 1) = some b1) (h2 : Memory.byte? m (a + 2) = some b2)
    (h3 : Memory.byte? m (a + 3) = some b3) : Memory.read4 m a = .ok (wordOfBytes b0 b1 b2 b3) := by
  rw [Memory.read4, Memory.read1_ok.mpr h0, Memory.read1_ok.mpr h1, Memory.read1_ok.mpr h2, Memory.read1_ok.mpr h3]; rfl

/-- A word is read where its four bytes stand big-endian. -/
theorem Memory.read4_of_word {m : Memory} {a v : Word}
    (h : ∀ k, k < 4 → Memory.byte? m (a + BitVec.ofNat 32 k) = some (v.extractLsb' (24 - 8 * k) 8)) :
    Memory.read4 m a = .ok v := by
  simp only [← byteOfWord_eq_extract] at h
  have h0 : Memory.byte? m a = some (byteOfWord v 0) := by simpa using h 0 (by decide)
  have hread := Memory.read4_of_bytes h0 (h 1 (by decide)) (h 2 (by decide)) (h 3 (by decide))
  rwa [wordOfBytes_byteOfWord] at hread

theorem pair_high32_low32 (v : DWord) : pair (high32 v) (low32 v) = v :=
  (BitVec.extractLsb'_append_extractLsb'_eq_extractLsb' (by rfl)).trans BitVec.extractLsb'_eq_self

/-- A read of two words that have values. -/
theorem Memory.read8_of_words {m : Memory} {a hi lo : Word} (hhi : Memory.read4 m a = .ok hi)
    (hlo : Memory.read4 m (a + 4) = .ok lo) : Memory.read8 m a = .ok (pair hi lo) := by
  rw [Memory.read8, hhi, hlo]; rfl

/-- A double word is read where its eight bytes stand big-endian. -/
theorem Memory.read8_of_double {m : Memory} {a : Word} {v : DWord}
    (h : ∀ k, k < 8 → Memory.byte? m (a + BitVec.ofNat 32 k) = some (v.extractLsb' (56 - 8 * k) 8)) :
    Memory.read8 m a = .ok v := by
  have hhigh : Memory.read4 m a = .ok (high32 v) := Memory.read4_of_word fun k hk => by
    rw [extract_high32 v hk]
    exact h k (by omega)
  have hlow : Memory.read4 m (a + 4) = .ok (low32 v) := Memory.read4_of_word fun k hk => by
    rw [extract_low32 v hk]
    exact offset_add a 4 k ▸ h (4 + k) (by omega)
  rw [Memory.read8_of_words hhigh hlow, pair_high32_low32]

/-- Settles O34: each write places its big-endian bytes at different addresses, so each is found there, and the read of that width
assembles them again. -/
theorem memoryReadsBackWrites : Obligations.MemoryReadsBackWrites := by
  intro m a
  refine ⟨fun v => ?_, fun v => ?_, fun v => ?_, fun v => ?_⟩
  · exact Memory.read1_ok.mpr (Memory.byte?_write1_same m a v)
  · have hhigh := offset_zero a ▸ Memory.byte?_write2 m a v (k := 0) (by decide)
    have hlow := Memory.byte?_write2 m a v (k := 1) (by decide)
    exact ⟨Memory.read2_of_half hhigh hlow, hhigh, hlow⟩
  · have hbytes := fun k (hk : k < 4) => Memory.byte?_write4 m a v hk
    exact ⟨Memory.read4_of_word hbytes, hbytes⟩
  · have hbytes := fun k (hk : k < 8) => Memory.byte?_write8 m a v hk
    exact ⟨Memory.read8_of_double hbytes, hbytes⟩

/-- Settles O35: each write places its bytes from its address and nothing elsewhere. -/
theorem memoryWritesOnlyItsBytes : Obligations.MemoryWritesOnlyItsBytes := fun m _ _ =>
  ⟨fun _ h => Memory.byte?_write1_other h, Memory.byte?_write2_other m, Memory.byte?_write4_other m,
    Memory.byte?_write8_other m⟩

/-! ## The byte at which a read faults (20_memory.md R55) -/

/-- `r` names the first of the `n` bytes from `a` that has no value. -/
def Memory.FirstUndefined (m : Memory) (a : Word) (n : Nat) (r : Fault) : Prop :=
  ∃ k, k < n ∧ Memory.byte? m (a + BitVec.ofNat 32 k) = none ∧
    (∀ j, j < k → Memory.byte? m (a + BitVec.ofNat 32 j) ≠ none) ∧ r = .undefinedRead (a + BitVec.ofNat 32 k)

theorem Memory.FirstUndefined.unique {m : Memory} {a : Word} {n : Nat} {r r' : Fault} (h : Memory.FirstUndefined m a n r)
    (h' : Memory.FirstUndefined m a n r') : r = r' := by
  obtain ⟨k, -, hnone, hfirst, rfl⟩ := h
  obtain ⟨k', -, hnone', hfirst', rfl⟩ := h'
  have hk : k = k' := by
    rcases Nat.lt_trichotomy k k' with hlt | heq | hgt
    · exact absurd hnone (hfirst' k hlt)
    · exact heq
    · exact absurd hnone' (hfirst k' hgt)
  rw [hk]

/-- What a read of the `n` bytes from `a` answers: a value only where all of them have one, else a fault that names the first
without. -/
structure Memory.ReadsBytes {α : Type} (m : Memory) (a : Word) (n : Nat) (x : Except Fault α) : Prop where
  defined_of_ok : ∀ v, x = .ok v → ∀ j, j < n → Memory.byte? m (a + BitVec.ofNat 32 j) ≠ none
  first_of_error : ∀ r, x = .error r → Memory.FirstUndefined m a n r

theorem Memory.ReadsBytes.error_iff {α : Type} {m : Memory} {a : Word} {n : Nat} {x : Except Fault α}
    (h : Memory.ReadsBytes m a n x) (r : Fault) : x = .error r ↔ Memory.FirstUndefined m a n r := by
  refine ⟨h.first_of_error r, fun hr => ?_⟩
  cases hx : x with
  | ok v =>
    obtain ⟨k, hk, hnone, -⟩ := hr
    exact absurd hnone (h.defined_of_ok v hx k hk)
  | error r' => rw [(h.first_of_error r' hx).unique hr]

theorem Memory.ReadsBytes.pure {α : Type} (m : Memory) (a : Word) (v : α) :
    Memory.ReadsBytes m a 0 (Pure.pure v : Except Fault α) :=
  ⟨fun _ _ j hj => absurd hj (Nat.not_lt_zero j), fun _ h => nomatch h⟩

theorem Memory.read1_readsBytes (m : Memory) (a : Word) : Memory.ReadsBytes m a 1 (Memory.read1 m a) := by
  constructor
  · intro v hv j hj
    rw [Nat.lt_one_iff.mp hj, offset_zero, Memory.read1_ok.mp hv]
    exact Option.some_ne_none v
  · intro r hr
    obtain ⟨hnone, rfl⟩ := Memory.read1_error.mp hr
    exact ⟨0, Nat.one_pos, by rwa [offset_zero], fun j hj => absurd hj (Nat.not_lt_zero j), by rw [offset_zero]⟩

/-- Reading `i` bytes and then the `n` above them reads `i + n` bytes. -/
theorem Memory.ReadsBytes.bind {α β : Type} {m : Memory} {a b : Word} {i n : Nat} {x : Except Fault α}
    {f : α → Except Fault β} (hx : Memory.ReadsBytes m a i x) (hb : a + BitVec.ofNat 32 i = b)
    (hf : ∀ v, Memory.ReadsBytes m b n (f v)) : Memory.ReadsBytes m a (i + n) (x >>= f) := by
  subst hb
  cases x with
  | error r =>
    refine ⟨fun v hv => (by cases hv), fun r' hr => ?_⟩
    cases hr
    obtain ⟨k, hk, hfirst⟩ := hx.first_of_error r rfl
    exact ⟨k, Nat.lt_add_right n hk, hfirst⟩
  | ok u =>
    obtain ⟨hok, herror⟩ := hf u
    simp only [Memory.FirstUndefined, offset_add] at hok herror
    have hlow := hx.defined_of_ok u rfl
    have hdefined : ∀ k, (∀ j, j < k → Memory.byte? m (a + BitVec.ofNat 32 (i + j)) ≠ none) →
        ∀ j, j < i + k → Memory.byte? m (a + BitVec.ofNat 32 j) ≠ none := by
      intro k hhigh j hj
      by_cases hji : j < i
      · exact hlow j hji
      · obtain ⟨l, rfl⟩ := Nat.exists_eq_add_of_le (not_lt.mp hji)
        exact hhigh l (by omega)
    refine ⟨fun v hv => hdefined n (hok v hv), fun r hr => ?_⟩
    obtain ⟨k, hk, hnone, hfirst, rfl⟩ := herror r hr
    exact ⟨i + k, Nat.add_lt_add_left hk i, hnone, hdefined k hfirst, rfl⟩

theorem Memory.read2_readsBytes (m : Memory) (a : Word) : Memory.ReadsBytes m a 2 (Memory.read2 m a) :=
  (Memory.read1_readsBytes m a).bind rfl fun _ => (Memory.read1_readsBytes m _).bind rfl fun _ => .pure m _ _

theorem Memory.read4_readsBytes (m : Memory) (a : Word) : Memory.ReadsBytes m a 4 (Memory.read4 m a) :=
  (Memory.read1_readsBytes m a).bind rfl fun _ => (Memory.read1_readsBytes m _).bind (offset_add a 1 1) fun _ =>
    (Memory.read1_readsBytes m _).bind (offset_add a 2 1) fun _ => (Memory.read1_readsBytes m _).bind rfl fun _ => .pure m _ _

theorem Memory.read8_readsBytes (m : Memory) (a : Word) : Memory.ReadsBytes m a 8 (Memory.read8 m a) :=
  (Memory.read4_readsBytes m a).bind rfl fun _ => (Memory.read4_readsBytes m _).bind rfl fun _ => .pure m _ _

/-- Settles O36: each read is a sequence of byte reads at rising addresses, so it stops at the first byte with no value. -/
theorem undefinedByteReadFaults : Obligations.UndefinedByteReadFaults := fun m a =>
  ⟨(Memory.read2_readsBytes m a).error_iff, (Memory.read4_readsBytes m a).error_iff, (Memory.read8_readsBytes m a).error_iff⟩

end Sys2Proof.Machine
end

section
/-! SUPPORT. The proofs of the family 30_encoding.md: fields of masked words, the round trip through the encoder, what the decoder
answers for a word that matches a row of the opcode table and for a word that matches none (30_encoding.md R65, R66, R77 to R80). -/

namespace Sys2Proof

open Sys2Proof.Machine

/-! ## Fields of masked and literal words -/

theorem bitField_and (w v : Word) (lo width : Nat) :
    bitField (w &&& v) lo width = bitField w lo width &&& bitField v lo width := by
  simp only [bitField, BitVec.toNat_and, ← Nat.shiftRight_eq_div_pow, Nat.shiftRight_and_distrib, Nat.and_mod_two_pow]

theorem bitField_ofNat (n lo width : Nat) : bitField (BitVec.ofNat 32 n) lo width = n % 2 ^ 32 / 2 ^ lo % 2 ^ width := by
  rw [bitField, BitVec.toNat_ofNat]

/-- A field keeps its value under a mask that covers it. The four masks below are those of the fields of 30_encoding.md R77. -/
theorem bitField_and_ones (w : Word) (lo width : Nat) : bitField w lo width &&& (2 ^ width - 1) = bitField w lo width := by
  rw [Nat.and_two_pow_sub_one_eq_mod, bitField, Nat.mod_mod]

@[simp] theorem bitField_and_63 (w : Word) (lo : Nat) : bitField w lo 6 &&& 63 = bitField w lo 6 := bitField_and_ones w lo 6
@[simp] theorem bitField_and_31 (w : Word) (lo : Nat) : bitField w lo 5 &&& 31 = bitField w lo 5 := bitField_and_ones w lo 5
@[simp] theorem bitField_and_65535 (w : Word) (lo : Nat) : bitField w lo 16 &&& 65535 = bitField w lo 16 :=
  bitField_and_ones w lo 16
@[simp] theorem bitField_and_67108863 (w : Word) (lo : Nat) : bitField w lo 26 &&& 67108863 = bitField w lo 26 :=
  bitField_and_ones w lo 26

@[simp] theorem bitField_lt_32 (w : Word) (lo : Nat) : bitField w lo 5 < 32 := Nat.mod_lt _ (by decide)

theorem val_rsOf (w : Word) : (rsOf w).val = bitField w 21 5 := Nat.mod_mod _ _
theorem val_rtOf (w : Word) : (rtOf w).val = bitField w 16 5 := Nat.mod_mod _ _
theorem val_rdOf (w : Word) : (rdOf w).val = bitField w 11 5 := Nat.mod_mod _ _
theorem val_shamtOf (w : Word) : (shamtOf w).val = bitField w 6 5 := Nat.mod_mod _ _
theorem val_ftOf (w : Word) : (ftOf w).val = bitField w 16 5 := val_rtOf w
theorem val_fsOf (w : Word) : (fsOf w).val = bitField w 11 5 := val_rdOf w
theorem val_fdOf (w : Word) : (fdOf w).val = bitField w 6 5 := val_shamtOf w
theorem toNat_imm16Of (w : Word) : (imm16Of w).toNat = bitField w 0 16 := Nat.mod_mod _ _
theorem toNat_target26Of (w : Word) : (target26Of w).toNat = bitField w 0 26 := Nat.mod_mod _ _

/-! ## A word is its fields, in each of the three formats -/

section
variable {op a b c d f : Nat} {v : Word}

theorem packR_eq_iff (ho : op < 64) (ha : a < 32) (hb : b < 32) (hc : c < 32) (hd : d < 32) (hf : f < 64) :
    packR op a b c d f = v ↔ op = bitField v 26 6 ∧ a = bitField v 21 5 ∧ b = bitField v 16 5 ∧ c = bitField v 11 5 ∧
      d = bitField v 6 5 ∧ f = bitField v 0 6 := by
  have := v.isLt
  rw [← BitVec.toNat_inj, toNat_packR ho ha hb hc hd hf]
  simp only [bitField]
  omega

theorem packI_eq_iff {imm : BitVec 16} (ho : op < 64) (ha : a < 32) (hb : b < 32) :
    packI op a b imm = v ↔
      op = bitField v 26 6 ∧ a = bitField v 21 5 ∧ b = bitField v 16 5 ∧ imm.toNat = bitField v 0 16 := by
  have := v.isLt
  have := imm.isLt
  rw [← BitVec.toNat_inj, toNat_packI ho ha hb]
  simp only [bitField]
  omega

theorem packJ_eq_iff {target : BitVec 26} (ho : op < 64) :
    packJ op target = v ↔ op = bitField v 26 6 ∧ target.toNat = bitField v 0 26 := by
  have := v.isLt
  have := target.isLt
  rw [← BitVec.toNat_inj, toNat_packJ ho]
  simp only [bitField]
  omega

theorem word_eq_iff (w v : Word) : w = v ↔ bitField w 26 6 = bitField v 26 6 ∧ bitField w 21 5 = bitField v 21 5 ∧
    bitField w 16 5 = bitField v 16 5 ∧ bitField w 11 5 = bitField v 11 5 ∧ bitField w 6 5 = bitField v 6 5 ∧
    bitField w 0 6 = bitField v 0 6 := by
  have := v.isLt
  have := w.isLt
  rw [← BitVec.toNat_inj]
  simp only [bitField]
  omega

/-! ## The round trip through the encoder -/

theorem fdOf_packR_reg (fd : RegIdx) (ho : op < 64) (ha : a < 32) (hb : b < 32) (hc : c < 32) (hf : f < 64) :
    fdOf (packR op a b c fd f) = fd := Fin.ext (fdOf_packR ho ha hb hc fd.isLt hf)

theorem fsOf_packR_reg (fs : RegIdx) (ho : op < 64) (ha : a < 32) (hb : b < 32) (hd : d < 32) (hf : f < 64) :
    fsOf (packR op a b fs d f) = fs := Fin.ext (fsOf_packR ho ha hb fs.isLt hd hf)

theorem ftOf_packR_reg (ft : RegIdx) (ho : op < 64) (ha : a < 32) (hc : c < 32) (hd : d < 32) (hf : f < 64) :
    ftOf (packR op a ft c d f) = ft := Fin.ext (ftOf_packR ho ha ft.isLt hc hd hf)

end

theorem decodeDouble_of_wellFormed {i : Instr} (h : i.wellFormed = true) : decodeDouble i = .ok i := if_pos h

theorem decode_special {w : Word} (h : opcodeOf w = 0x00) : decode w = decodeSpecial w := by simp only [decode, h]
theorem decode_regimm {w : Word} (h : opcodeOf w = 0x01) : decode w = decodeRegimm w := by simp only [decode, h]
theorem decode_cop1 {w : Word} (h : opcodeOf w = 0x11) : decode w = decodeCop1 w := by simp only [decode, h]

/-- The fields that select an instruction select its own arm of the decoder, and each operand is read back from its own field. -/
theorem decode_encode (i : Instr) : decode (encode i) = decodeDouble i := by
  cases i
  case addD | subD | mulD | divD | movD =>
    simp [encode, decode, decodeCop1, decodeDoubleFmt, opcodeOf_packR, fmtOf_packR, functOf_packR, fdOf_packR_reg,
      fsOf_packR_reg, ftOf_packR_reg]
  case addS | subS | mulS | divS | movS | mfc1 | mtc1 =>
    rw [decodeDouble_of_wellFormed rfl]
    simp [encode, decode, decodeCop1, decodeSingle, opcodeOf_packR, fmtOf_packR, functOf_packR, Fin.ext_iff, rtOf_packR,
      fdOf_packR, fsOf_packR, ftOf_packR]
  case j | jal =>
    rw [decodeDouble_of_wellFormed rfl]
    simp [encode, decode, opcodeOf_packJ, target26Of_packJ]
  case bltz | bgez | bltzal | bgezal =>
    rw [decodeDouble_of_wellFormed rfl]
    simp [encode, decode, decodeRegimm, opcodeOf_packI, Fin.ext_iff, rsOf_packI, rtOf_packI, imm16Of_packI]
  all_goals
    rw [decodeDouble_of_wellFormed rfl]
    simp [encode, decode, decodeSpecial, opcodeOf_packR, functOf_packR, Fin.ext_iff, rsOf_packR, rtOf_packR, rdOf_packR,
      shamtOf_packR, opcodeOf_packI, rsOf_packI, rtOf_packI, ftOf_packI, imm16Of_packI]

/-! ## What a word that matches a row decodes to -/

/-- The answer `a` reads the word `w` as an instruction of the row `m`: it is that instruction, or the refusal of its odd register,
and the word is the instruction's encoding but for the don't-care bits. -/
def ReadsAs (w : Word) (m : Mnemonic) (a : Except DecodeError Instr) : Prop :=
  ∃ i : Instr, a = decodeDouble i ∧ i.mnemonic = m ∧ encode i = w &&& i.usedBits

theorem readsAs_ok {w : Word} {m : Mnemonic} {i : Instr} (hwf : i.wellFormed = true) (hm : i.mnemonic = m)
    (hbits : encode i = w &&& i.usedBits) : ReadsAs w m (.ok i) :=
  ⟨i, (decodeDouble_of_wellFormed hwf).symm, hm, hbits⟩

theorem rowMatches_iff (w k mask : Word) (m : Mnemonic) : rowMatches w (k, mask, m) = true ↔
    bitField w 26 6 &&& bitField mask 26 6 = bitField k 26 6 ∧ bitField w 21 5 &&& bitField mask 21 5 = bitField k 21 5 ∧
    bitField w 16 5 &&& bitField mask 16 5 = bitField k 16 5 ∧ bitField w 11 5 &&& bitField mask 11 5 = bitField k 11 5 ∧
    bitField w 6 5 &&& bitField mask 6 5 = bitField k 6 5 ∧ bitField w 0 6 &&& bitField mask 0 6 = bitField k 0 6 := by
  simp only [rowMatches, beq_iff_eq, word_eq_iff (w &&& mask), bitField_and]

section
variable {w : Word}

theorem decode_of_specialRow : ∀ r ∈ specialRows, rowMatches w r = true → ReadsAs w r.2.2 (decode w) := by
  simp only [specialRows, List.forall_mem_cons, List.not_mem_nil, IsEmpty.forall_iff, implies_true, rowMatches_iff,
    bitField_ofNat, BitVec.ofNat_eq_ofNat, Nat.reducePow, Nat.reduceMod, Nat.reduceDiv, bitField_and_63,
    Nat.and_zero, true_and, and_true, and_imp]
  and_intros
  all_goals
    intro hop hf
    rw [decode_special hop]
    simp only [decodeSpecial, functOf, hf]
    refine readsAs_ok rfl rfl ?_
    simp [encode, Instr.usedBits, packR_eq_iff, bitField_and, bitField_ofNat, val_rsOf, val_rtOf, val_rdOf, val_shamtOf,
      hop, hf]

theorem decode_of_immediateRow : ∀ r ∈ immediateRows, rowMatches w r = true → ReadsAs w r.2.2 (decode w) := by
  simp only [immediateRows, List.forall_mem_cons, List.not_mem_nil, IsEmpty.forall_iff, implies_true, rowMatches_iff,
    bitField_ofNat, BitVec.ofNat_eq_ofNat, Nat.reducePow, Nat.reduceMod, Nat.reduceDiv, bitField_and_63,
    bitField_and_31, Nat.and_zero, true_and, and_true, and_imp]
  refine ⟨?addi, ?addiu, ?slti, ?sltiu, ?andi, ?ori, ?xori, ?lui, ?j, ?jal, ?beq, ?bne, ?blez, ?bgtz, ?bltz, ?bgez,
    ?bltzal, ?bgezal, ?lb, ?lbu, ?lh, ?lhu, ?lw, ?lwl, ?lwr, ?sb, ?sh, ?sw, ?swl, ?swr, ?lwc1, ?swc1⟩
  case bltz | bgez | bltzal | bgezal =>
    intro hop hrt
    rw [decode_regimm hop]
    simp only [decodeRegimm, val_rtOf, hrt]
    refine readsAs_ok rfl rfl ?_
    simp [encode, Instr.usedBits, packI_eq_iff, bitField_and, bitField_ofNat, val_rsOf, toNat_imm16Of, hop, hrt]
  all_goals
    intro hop
    simp only [decode, opcodeOf, hop]
    refine readsAs_ok rfl rfl ?_
    simp [encode, Instr.usedBits, packI_eq_iff, packJ_eq_iff, bitField_and, bitField_ofNat, val_rsOf, val_rtOf, val_ftOf,
      toNat_imm16Of, toNat_target26Of, hop]

theorem decode_of_cop1Row : ∀ r ∈ cop1Rows, rowMatches w r = true → ReadsAs w r.2.2 (decode w) := by
  simp only [cop1Rows, List.forall_mem_cons, List.not_mem_nil, IsEmpty.forall_iff, implies_true, rowMatches_iff,
    bitField_ofNat, BitVec.ofNat_eq_ofNat, Nat.reducePow, Nat.reduceMod, Nat.reduceDiv, bitField_and_63,
    bitField_and_31, Nat.and_zero, true_and, and_true, and_imp]
  refine ⟨?mfc1, ?mtc1, ?addS, ?subS, ?mulS, ?divS, ?movS, ?addD, ?subD, ?mulD, ?divD, ?movD⟩
  case mfc1 | mtc1 =>
    intro hop hfmt
    rw [decode_cop1 hop]
    simp only [decodeCop1, fmtOf, hfmt]
    refine readsAs_ok rfl rfl ?_
    simp [encode, Instr.usedBits, packR_eq_iff, bitField_and, bitField_ofNat, val_rtOf, val_fsOf, hop, hfmt]
  case addD | subD | mulD | divD | movD =>
    intro hop hfmt hf
    rw [decode_cop1 hop]
    simp only [decodeCop1, decodeDoubleFmt, fmtOf, functOf, hfmt, hf]
    refine ⟨_, rfl, rfl, ?_⟩
    simp [encode, Instr.usedBits, packR_eq_iff, bitField_and, bitField_ofNat, val_fdOf, val_fsOf, val_ftOf, hop, hfmt, hf]
  all_goals
    intro hop hfmt hf
    rw [decode_cop1 hop]
    simp only [decodeCop1, decodeSingle, fmtOf, functOf, hfmt, hf]
    refine readsAs_ok rfl rfl ?_
    simp [encode, Instr.usedBits, packR_eq_iff, bitField_and, bitField_ofNat, val_fdOf, val_fsOf, val_ftOf, hop, hfmt, hf]

theorem decode_of_row {r : Word × Word × Mnemonic} (hr : r ∈ opcodeTable) (hm : rowMatches w r = true) :
    ReadsAs w r.2.2 (decode w) := by
  rw [opcodeTable, List.append_assoc, List.mem_append, List.mem_append] at hr
  obtain hr | hr | hr := hr
  · exact decode_of_specialRow r hr hm
  · exact decode_of_immediateRow r hr hm
  · exact decode_of_cop1Row r hr hm

/-! ## What a word that matches no row decodes to -/

theorem decodeSpecial_of_no_row (hop : opcodeOf w = 0x00) (h : ∀ r ∈ specialRows, rowMatches w r = false) :
    decodeSpecial w = .error .illegal := by
  rw [opcodeOf] at hop
  simp only [specialRows, List.forall_mem_cons, ← Bool.not_eq_true, rowMatches_iff, hop, bitField_ofNat,
    BitVec.ofNat_eq_ofNat, Nat.reducePow, Nat.reduceMod, Nat.reduceDiv, Nat.reduceAnd, Nat.and_zero, bitField_and_63,
    true_and] at h
  simp [decodeSpecial, functOf, h]

theorem decodeRegimm_of_no_row (hop : opcodeOf w = 0x01) (h : ∀ r ∈ immediateRows, rowMatches w r = false) :
    decodeRegimm w = .error .illegal := by
  rw [opcodeOf] at hop
  simp only [immediateRows, List.forall_mem_cons, ← Bool.not_eq_true, rowMatches_iff, hop, bitField_ofNat,
    BitVec.ofNat_eq_ofNat, Nat.reducePow, Nat.reduceMod, Nat.reduceDiv, Nat.reduceAnd, Nat.and_zero, bitField_and_31,
    true_and, and_true] at h
  simp [decodeRegimm, val_rtOf, h]

theorem decodeCop1_of_no_row (hop : opcodeOf w = 0x11) (h : ∀ r ∈ cop1Rows, rowMatches w r = false) :
    decodeCop1 w = .error .illegal := by
  rw [opcodeOf] at hop
  simp only [cop1Rows, List.forall_mem_cons, ← Bool.not_eq_true, rowMatches_iff, hop, bitField_ofNat,
    BitVec.ofNat_eq_ofNat, Nat.reducePow, Nat.reduceMod, Nat.reduceDiv, Nat.reduceAnd, Nat.and_zero, bitField_and_63,
    bitField_and_31, true_and, and_true, not_and] at h
  by_cases hs : bitField w 21 5 = 0x10
  · simp_all [decodeCop1, decodeSingle, fmtOf, functOf]
  by_cases hd : bitField w 21 5 = 0x11
  · simp_all [decodeCop1, decodeDoubleFmt, fmtOf, functOf]
  simp [decodeCop1, fmtOf, h]

theorem decode_of_no_row (h : ∀ r ∈ opcodeTable, rowMatches w r = false) : decode w = .error .illegal := by
  obtain ⟨hs, hi, hc⟩ : (∀ r ∈ specialRows, rowMatches w r = false) ∧
      (∀ r ∈ immediateRows, rowMatches w r = false) ∧ ∀ r ∈ cop1Rows, rowMatches w r = false := by
    simpa only [opcodeTable, List.forall_mem_append, and_assoc] using h
  by_cases hspecial : opcodeOf w = 0x00
  · rw [decode_special hspecial, decodeSpecial_of_no_row hspecial hs]
  by_cases hregimm : opcodeOf w = 0x01
  · rw [decode_regimm hregimm, decodeRegimm_of_no_row hregimm hi]
  by_cases hcop1 : opcodeOf w = 0x11
  · rw [decode_cop1 hcop1, decodeCop1_of_no_row hcop1 hc]
  rw [opcodeOf] at hspecial hregimm hcop1
  simp only [immediateRows, List.forall_mem_cons, ← Bool.not_eq_true, rowMatches_iff, hregimm, bitField_ofNat,
    BitVec.ofNat_eq_ofNat, Nat.reducePow, Nat.reduceMod, Nat.reduceDiv, Nat.and_zero, bitField_and_63,
    bitField_and_31, true_and, and_true, not_and] at hi
  simp [decode, opcodeOf, hi]

end

/-! ## Rows against each other -/

/-- Two rows ask for different values of a bit that both masks keep. -/
theorem opcodeTable_conflicts : opcodeTable.Pairwise fun r q => r.1 &&& q.2.1 ≠ q.1 &&& r.2.1 := by decide +kernel

theorem row_unique {w : Word} {r q : Word × Word × Mnemonic} (hr : r ∈ opcodeTable) (hq : q ∈ opcodeTable)
    (hwr : rowMatches w r = true) (hwq : rowMatches w q = true) : q = r := by
  by_contra hne
  rw [rowMatches, beq_iff_eq] at hwr hwq
  have hsymm : Std.Symm fun r q : Word × Word × Mnemonic => r.1 &&& q.2.1 ≠ q.1 &&& r.2.1 := ⟨fun _ _ h => h.symm⟩
  refine opcodeTable_conflicts.forall hq hr hne ?_
  rw [← hwr, ← hwq, BitVec.and_assoc, BitVec.and_assoc, BitVec.and_comm r.2.1]

/-! ## The statements of the family -/

theorem mnemonic_of_not_wellFormed {i : Instr} (h : i.wellFormed = false) :
    i.mnemonic ∈ [.addD, .subD, .mulD, .divD, .movD] := by
  cases i
  case addD | subD | mulD | divD | movD => simp [Instr.mnemonic]
  all_goals cases h

theorem decodeDouble_of_not_wellFormed {i : Instr} (h : i.wellFormed = false) :
    decodeDouble i = .error (.unmodelled "odd double register") := if_neg (by simp [h])

theorem decodeDouble_ne_illegal (i : Instr) : decodeDouble i ≠ .error .illegal := by
  cases h : i.wellFormed <;> simp [decodeDouble, h]

theorem decodeDouble_eq_ok {i j : Instr} : decodeDouble j = .ok i ↔ j.wellFormed = true ∧ j = i := by
  cases h : j.wellFormed <;> simp [decodeDouble, h]

/-- Settles O1: the encoder and the decoder agree on every field. -/
theorem decodeOfEncodeIsIdentity : Obligations.DecodeOfEncodeIsIdentity := decode_encode

theorem illegal_iff_no_row (w : Word) : decode w = .error .illegal ↔ ∀ r ∈ opcodeTable, rowMatches w r = false := by
  refine ⟨fun hill r hr => ?_, decode_of_no_row⟩
  by_contra hm
  obtain ⟨i, hi, -, -⟩ := decode_of_row hr (Bool.eq_true_of_not_eq_false hm)
  exact decodeDouble_ne_illegal i (hi ▸ hill)

/-- Settles O3: a matching row names an instruction that the word decodes to or is refused as, and no arm but those of the rows
answers. -/
theorem illegalIffNoRowMatches : Obligations.IllegalIffNoRowMatches := illegal_iff_no_row

theorem decode_ok {w : Word} {i : Instr} (h : decode w = .ok i) :
    i.wellFormed = true ∧ encode i = w &&& i.usedBits := by
  have hlegal : ¬ ∀ r ∈ opcodeTable, rowMatches w r = false := fun hno => by
    rw [decode_of_no_row hno] at h
    cases h
  push Not at hlegal
  obtain ⟨r, hr, hm⟩ := hlegal
  obtain ⟨j, hj, -, hbits⟩ := decode_of_row hr (Bool.eq_true_of_not_eq_false hm)
  obtain ⟨hwf, rfl⟩ := decodeDouble_eq_ok.mp (hj.symm.trans h)
  exact ⟨hwf, hbits⟩

/-- Settles O2: a decoded word matches a row, and so is read as that row's instruction. -/
theorem encodeOfDecodeKeepsUsedBits : Obligations.EncodeOfDecodeKeepsUsedBits := fun _ _ => decode_ok

/-- Settles O4: the instruction of the matching row is the one decoded unless it is ill formed; rows that conflict share no word. -/
theorem matchingRowNamesInstruction : Obligations.MatchingRowNamesInstruction := by
  intro w r hr hm
  refine ⟨?_, fun q hq hmq => row_unique hr hq hm hmq⟩
  obtain ⟨i, hi, hname, -⟩ := decode_of_row hr hm
  cases hwf : i.wellFormed with
  | true => exact .inl ⟨i, hi.trans (decodeDouble_of_wellFormed hwf), hname⟩
  | false => exact .inr ⟨hi.trans (decodeDouble_of_not_wellFormed hwf), hname ▸ mnemonic_of_not_wellFormed hwf⟩

theorem contract_infoOf {i : Instr} (h : i.wellFormed = true) (w : Word) : (infoOf i w).contract = true := by
  cases i
  case addD fd fs ft => exact (Laws.Contract.addD fd fs ft h w).1
  case subD fd fs ft => exact (Laws.Contract.subD fd fs ft h w).1
  case mulD fd fs ft => exact (Laws.Contract.mulD fd fs ft h w).1
  case divD fd fs ft => exact (Laws.Contract.divD fd fs ft h w).1
  case movD fd fs => exact (Laws.Contract.movD fd fs h w).1
  all_goals rfl

/-- Settles O6: a legal word decodes to a well-formed instruction, and the fields of those meet the contract. -/
theorem referenceDecoderMeetsContract : Obligations.ReferenceDecoderMeetsContract := by
  intro w d h
  obtain ⟨i, hi, rfl⟩ := refDecode_legal h
  obtain ⟨hwf, -⟩ := decode_ok hi
  exact contract_infoOf hwf w

/-- Settles O5: evaluation of the decoder on the fourteen words. -/
theorem sampleWordsDecode : Obligations.SampleWordsDecode :=
  ⟨rfl, rfl, rfl, rfl, rfl, rfl, rfl, rfl, rfl, rfl, rfl, rfl, rfl, rfl⟩

end Sys2Proof
end

section
/-! SUPPORT. The proofs of the family 40_clock_fetch.md, first part: which states tick, and what the Fetch step of a tick leaves
(40_clock_fetch.md R81, R89, R92). -/

namespace Sys2Proof.Machine

/-! ## Which states tick (40_clock_fetch.md R81) -/

theorem State.mayTick_iff {s : State} : s.mayTick = true ↔ s.booted = true ∧ s.exit = false ∧ s.fault = none := by
  simp [State.mayTick, and_assoc]

/-- From a state that may tick, the step is the tick. -/
theorem step_of_mayTick {s : State} (h : s.mayTick = true) : step s = toOutcome (tick Cfg.reference s) := by
  obtain ⟨hbooted, hexit, hfault⟩ := State.mayTick_iff.mp h
  simp [step, guardedTick, hbooted, hexit, hfault]

/-- Settles O12: the guard of the step is R81's, and a tick answers a next state or a fault. -/
theorem onlyLiveStatesTick : Obligations.OnlyLiveStatesTick := by
  intro s
  refine ⟨fun t h => ?_, fun hlive => ?_⟩
  · obtain ⟨hfault, hbooted, hexit, -⟩ := step_next.mp h
    exact ⟨hbooted, hexit, hfault⟩
  · rw [step_of_mayTick hlive]
    cases tick Cfg.reference s with
    | ok t => exact .inl ⟨t, rfl⟩
    | error r => exact .inr ⟨r, rfl⟩

/-! ## The Fetch step (40_clock_fetch.md R89) -/

theorem fetchWord_of_aligned {m : Memory} {a : Word} (h : a.toNat % 4 = 0) : fetchWord m a = Memory.read4 m a := by
  simp [fetchWord, aligned4, h]

theorem fetchWord_of_misaligned {m : Memory} {a : Word} (h : a.toNat % 4 ≠ 0) : fetchWord m a = .error (.misalignedFetch a) := by
  simp [fetchWord, aligned4, h]

/-- With fetching enabled, the Fetch step is the fetch at the program counter. -/
theorem ifStep_of_fetchEn {s : State} (h : s.fetchEn = true) :
    ifStep s = (fetchWord s.mem s.pc).map fun w => ((s.putIfId (fetched s.pc w)).setPc (s.pc + 4)).countFetch := by
  rw [ifStep, if_pos h]
  cases fetchWord s.mem s.pc <;> rfl

theorem ifStep_of_stall {s : State} (h : s.fetchEn = false) (hs : s.stall = true) : ifStep s = .ok (s.putIfId s.ifId.cur) := by
  simp [ifStep, h, hs]

theorem ifStep_of_disabled {s : State} (h : s.fetchEn = false) (hs : s.stall = false) : ifStep s = .ok (s.putIfId bubble) := by
  simp [ifStep, h, hs]

/-- Settles O19: the three branches of the Fetch step, the first by what the fetch answers. -/
theorem fetchStepAction : Obligations.FetchStepAction := by
  refine fun s => ⟨fun he ha w hw => ?_, fun he ha r hr => ?_, fun he ha => ?_, ifStep_of_stall, ifStep_of_disabled⟩
  · rw [ifStep_of_fetchEn he, fetchWord_of_aligned ha, hw]; rfl
  · rw [ifStep_of_fetchEn he, fetchWord_of_aligned ha, hr]; rfl
  · rw [ifStep_of_fetchEn he, fetchWord_of_misaligned ha]; rfl

/-! ## The word a tick fetches (40_clock_fetch.md R92) -/

/-- The stages ahead of Fetch count no word and leave the fetched register as it is. -/
theorem tick_fetch {c : Cfg} {s t : State} (h : tick c s = .ok t) (he : t.exit = false) :
    ∃ u v, u.nFetched = s.nFetched ∧ u.ifId.cur = s.ifId.cur ∧ ifStep u = .ok v ∧ t = v.commit := by
  obtain ⟨s1, h1, ⟨hexit, rfl⟩ | ⟨-, s2, s3, s4, s5, h2, h3, h4, h5, rfl⟩⟩ := tick_cases h
  · rw [State.countCycle_exit, hexit] at he
    cases he
  · have hcount := ((wbStep_countFrame h1).trans (memStep_countFrame h2)).trans
      ((exStep_countFrame h3).trans (idStep_countFrame h4))
    obtain ⟨hwb, -⟩ := wbStep_keeps h1
    obtain ⟨p, m, -, rfl⟩ := memStep_ok h2
    obtain ⟨hex, -⟩ := exStep_keeps h3
    obtain ⟨-, -, -, hfront, -⟩ := front_cases h4 h5
    have hif : s5.ifId.cur = s4.ifId.cur := by
      rcases ifStep_cases h5 with ⟨-, w, -, rfl⟩ | ⟨-, -, rfl⟩ | ⟨-, -, rfl⟩ <;> rfl
    exact ⟨s4, s5, hcount.nFetched, by rw [← hif, hfront, hex, State.withMem_ifId, State.putMemWb_ifId, hwb], h5, rfl⟩

/-- Settles O20: Fetch is the last stage, so the memory it reads is the one the tick leaves. -/
theorem fetchSeesSameTickStore : Obligations.FetchSeesSameTickStore := by
  intro s t h he
  obtain ⟨-, -, -, htick⟩ := step_next.mp h
  obtain ⟨u, v, hcount, hdecode, hif, rfl⟩ := tick_fetch htick he
  rcases ifStep_cases hif with ⟨-, w, hw, rfl⟩ | ⟨-, hs, rfl⟩ | ⟨-, hs, rfl⟩
  · left
    simp [hcount, fetched, hw]
  · right
    simp [hcount, hdecode, hs]
  · right
    simp [hcount, hs]

end Sys2Proof.Machine
end

section
/-! SUPPORT. `exec` as the composition of what the stages do to the lone instruction's register: Decode makes it, Execute and Memory
pass it on, Writeback retires it (log entry 1). The word's don't-care bits play no part (30_encoding.md R80). -/

namespace Sys2Proof.Machine

/-! ## The stages' parts, as functions of the instruction's register and the state without the pipe -/

/-- Decode's part: the register of the word `w` fetched at `s.pc` (41_decode_hazard.md R112, R118). -/
def decodePart (s : State) (w : Word) : Except Fault PipeReg :=
  match Cfg.reference.decode w with
  | .legal d => .ok (soloRegister s w d)
  | .illegal => .ok (illegalReg (fetched s.pc w))
  | .unmodelled _ => .error (.unmodelledInstruction w)

/-- Execute's part: a system call or an illegal opcode passes through, every other instruction executes (42_execute_delay_slot.md
R137). -/
def executePart (p : PipeReg) (s : State) : Except Fault (PipeReg × State) :=
  if p.isIllegal then .ok (p, s)
  else if p.isSyscall then
    if s.bdPending then .error (.controlInDelaySlot p.pc) else .ok (p, s)
  else execPass refAlu p p.val1 p.val2 s

/-- Memory's part (43_memory_writeback.md R146). -/
def memoryPart (p : PipeReg) (s : State) : Except Fault (PipeReg × State) :=
  (memPass refMemop p s.mem).map fun r => (r.1, s.withMem r.2)

/-- Writeback's part (43_memory_writeback.md R155). `x[0]` reads as zero in a halted state too. -/
def retirePart (p : PipeReg) (s : State) : Except Fault State :=
  if p.isSyscall then (handSyscall refSyscall s p).map State.forceX0
  else if p.isIllegal then .ok s.forceX0.haltIllegal
  else .ok (s.commitReg p).forceX0

/-- What the three stages after Decode do with the register `p`. -/
def passage (p : PipeReg) (s : State) : Except Fault State := do
  let (q, t) ← executePart p s
  let (r, u) ← memoryPart q t
  retirePart r u

theorem memoryPart_through {p : PipeReg} (h : p.memOp = false) (s : State) : memoryPart p s = .ok (p, s) := by
  rw [memoryPart, memPass_through h]
  rfl

/-! ## The word stands in a register for its immediate fields alone -/

/-- The same register with the fields of another word (30_encoding.md R79). -/
def PipeReg.reword (p : PipeReg) (w : Word) : PipeReg := { p with ins := w, shamt := shamtOf w, branchOff := branchOffset w }

/-- The same handler input with the fields of another word. -/
def AluIn.reword (i : AluIn) (w : Word) : AluIn := { i with ins := w, shamt := shamtOf w, branchOff := branchOffset w }

theorem soloRegister_reword (i : Instr) (s : State) (v w : Word) :
    (soloRegister s v (infoOf i v)).reword w = soloRegister s w (infoOf i w) := by
  cases i <;> rfl

theorem imm16Of_masked {w m : Word} (h : bitField m 0 16 = 65535) : imm16Of (w &&& m) = imm16Of w := by
  apply BitVec.eq_of_toNat_eq
  rw [toNat_imm16Of, toNat_imm16Of, bitField_and, h, bitField_and_65535]

theorem shamtOf_masked {w m : Word} (h : bitField m 6 5 = 31) : shamtOf (w &&& m) = shamtOf w := by
  apply Fin.ext
  rw [val_shamtOf, val_shamtOf, bitField_and, h, bitField_and_31]

theorem and_fullMask (w : Word) : w &&& 0xFFFFFFFF = w := BitVec.and_allOnes

/-- No ALU handler reads a don't-care bit of its instruction's word: where the word has one, a shift by a constant reads `shamt`,
LUI, BLEZ and BGTZ read the immediate, and the others read no field (30_encoding.md R79, R80). -/
theorem refAlu_masked (i : Instr) (a : AluIn) (w : Word) :
    refAlu i.mnemonic (a.reword (w &&& i.usedBits)) = refAlu i.mnemonic (a.reword w) := by
  cases i
  case sll | srl | sra =>
    simp [refAlu, Instr.mnemonic, aluSll, aluSrl, aluSra, AluIn.reword, AluIn.b, Instr.usedBits, shamtOf_masked, bitField_ofNat]
  case lui => simp [refAlu, Instr.mnemonic, aluLui, AluIn.reword, luiImm, Instr.usedBits, imm16Of_masked, bitField_ofNat]
  case blez | bgtz =>
    simp [refAlu, Instr.mnemonic, aluBlez, aluBgtz, AluIn.reword, AluIn.a, branchOffset, Instr.usedBits, imm16Of_masked,
      bitField_ofNat]
  case addi | addiu | slti | sltiu | andi | ori | xori | j | jal | beq | bne | bltz | bgez | bltzal | bgezal | lb | lbu | lh | lhu |
      lw | lwl | lwr | sb | sh | sw | swl | swr | lwc1 | swc1 =>
    exact congrArg (fun v => refAlu _ (a.reword v)) (and_fullMask w)
  all_goals rfl

/-- No memory handler reads the word. -/
theorem refMemop_word (id : Mnemonic) (i : MemIn) (w : Word) (m : Memory) :
    refMemop id { i with ins := w } m = refMemop id i m := by
  cases id <;> rfl

@[simp] theorem PipeReg.reword_isNop (p : PipeReg) (w : Word) : (p.reword w).isNop = p.isNop := rfl
@[simp] theorem PipeReg.reword_isIllegal (p : PipeReg) (w : Word) : (p.reword w).isIllegal = p.isIllegal := rfl
@[simp] theorem PipeReg.reword_memOp (p : PipeReg) (w : Word) : (p.reword w).memOp = p.memOp := rfl
@[simp] theorem PipeReg.reword_memId (p : PipeReg) (w : Word) : (p.reword w).memId = p.memId := rfl

/-- Execute's part keeps what Memory and Writeback choose their part by. -/
theorem executePart_keeps {p q : PipeReg} {s t : State} (h : executePart p s = .ok (q, t)) :
    q.isNop = p.isNop ∧ q.isSyscall = p.isSyscall ∧ q.isIllegal = p.isIllegal ∧ q.memOp = p.memOp ∧ q.memId = p.memId := by
  unfold executePart at h
  split at h
  · cases h; simp
  · split at h
    · split at h <;> cases h; simp
    · obtain ⟨out, -, -, -, rfl, -⟩ := execPass_cases h
      simp [executed]

theorem executePart_reword {p : PipeReg} {v w : Word} (s : State)
    (h : ∀ id, p.aluId = some id → ∀ a : AluIn, refAlu id (a.reword v) = refAlu id (a.reword w)) :
    executePart (p.reword v) s = (executePart (p.reword w) s).map fun r => (r.1.reword v, r.2) := by
  have hcall : ∀ a : AluIn, aluCall refAlu (p.reword v) (a.reword v) = aluCall refAlu (p.reword w) (a.reword w) := by
    intro a
    cases hid : p.aluId with
    | none => simp [aluCall, PipeReg.reword, hid]
    | some id => simpa [aluCall, PipeReg.reword, hid] using h id hid a
  have hpass : execPass refAlu (p.reword v) p.val1 p.val2 s =
      (execPass refAlu (p.reword w) p.val1 p.val2 s).map fun r => (r.1.reword v, r.2) := by
    have hout := hcall (aluInput p p.val1 p.val2 s.hi s.lo)
    have hv : aluInput (p.reword v) p.val1 p.val2 s.hi s.lo = (aluInput p p.val1 p.val2 s.hi s.lo).reword v := rfl
    have hw : aluInput (p.reword w) p.val1 p.val2 s.hi s.lo = (aluInput p p.val1 p.val2 s.hi s.lo).reword w := rfl
    simp only [execPass, hv, hw, hout]
    split
    · rfl
    · split <;> rfl
  unfold executePart
  cases hi : p.isIllegal
  · cases hs : p.isSyscall
    · simpa [PipeReg.reword, hi, hs] using hpass
    · cases hb : s.bdPending <;> simp [PipeReg.reword, hi, hs, Except.map]
  · simp [PipeReg.reword, hi, Except.map]

theorem memPass_reword (p : PipeReg) (v : Word) (m : Memory) (h : p.memOp = true → p.memId.isSome = true) :
    memPass refMemop (p.reword v) m = (memPass refMemop p m).map fun r => (r.1.reword v, r.2) := by
  cases hop : p.memOp
  · rw [memPass_through (p := p) hop, memPass_through (p := p.reword v) hop]
    rfl
  · obtain ⟨id, hid⟩ := Option.isSome_iff_exists.mp (h hop)
    have hin : refMemop id (memInput (p.reword v)) m = refMemop id (memInput p) m := refMemop_word id (memInput p) v m
    simp only [memPass, PipeReg.reword_isNop, PipeReg.reword_memOp, PipeReg.reword_isIllegal, PipeReg.reword_memId, hid, hin]
    cases refMemop id (memInput p) m <;> split <;> rfl

theorem memoryPart_reword (p : PipeReg) (v : Word) (s : State) (h : p.memOp = true → p.memId.isSome = true) :
    memoryPart (p.reword v) s = (memoryPart p s).map fun r => (r.1.reword v, r.2) := by
  rw [memoryPart, memoryPart, memPass_reword p v s.mem h]
  cases memPass refMemop p s.mem <;> rfl

theorem retirePart_reword (p : PipeReg) (v : Word) (s : State) : retirePart (p.reword v) s = retirePart p s := rfl

/-- The passage is the same for two words that the register's ALU handler cannot tell apart. -/
theorem passage_reword {p : PipeReg} {v w : Word} (s : State) (hm : p.memOp = true → p.memId.isSome = true)
    (h : ∀ id, p.aluId = some id → ∀ a : AluIn, refAlu id (a.reword v) = refAlu id (a.reword w)) :
    passage (p.reword v) s = passage (p.reword w) s := by
  rw [passage, passage, executePart_reword s h]
  cases hx : executePart (p.reword w) s with
  | error r => rfl
  | ok r =>
    obtain ⟨q, t⟩ := r
    show (do let (r, u) ← memoryPart (q.reword v) t; retirePart r u) = (do let (r, u) ← memoryPart q t; retirePart r u)
    obtain ⟨-, -, -, hop, hid⟩ := executePart_keeps hx
    rw [memoryPart_reword q v t (by simpa [hop, hid] using hm)]
    cases memoryPart q t with
    | error r => rfl
    | ok b => exact retirePart_reword b.1 v b.2

/-! ## `exec` -/

theorem memId_infoOf (i : Instr) (w : Word) : (infoOf i w).memOp = true → (infoOf i w).memId = some i.mnemonic := by
  cases i
  case lb | lbu | lh | lhu | lw | lwl | lwr | sb | sh | sw | swl | swr | lwc1 | swc1 => exact fun _ => rfl
  all_goals nofun

theorem aluId_infoOf {i : Instr} (h : i ≠ .syscall) (w : Word) : (infoOf i w).aluId = some i.mnemonic := by
  cases i
  case syscall => exact absurd rfl h
  all_goals rfl

theorem isSyscall_infoOf (i : Instr) (w : Word) : (infoOf i w).isSyscall = decide (i = .syscall) := by
  cases i <;> rfl

/-- The meaning of an instruction other than SYSCALL is the passage with its own handlers (45_reference_isa_int.md R159). -/
theorem exec_eq_runAlone {i : Instr} (hwf : i.wellFormed = true) (h : i ≠ .syscall) (s : State) :
    ∃ mem, ((infoOf i (encode i)).memOp = true → mem = refMemop i.mnemonic) ∧
      exec i s = runAlone (encode i) (infoOf i (encode i)) (refAlu i.mnemonic) mem s := by
  cases i
  case syscall => exact absurd rfl h
  case addD | subD | mulD | divD | movD => exact ⟨noMemory, nofun, if_pos hwf⟩
  case lb | lbu | lh | lhu | lw | lwl | lwr | sb | sh | sw | swl | swr | lwc1 | swc1 => exact ⟨_, fun _ => rfl, rfl⟩
  all_goals exact ⟨noMemory, nofun, rfl⟩

/-- `execPass` calls the register's own ALU handler and no other. -/
theorem execPass_handler {alu : Mnemonic → AluIn → AluOut} {p : PipeReg} {id : Mnemonic} (h : p.aluId = some id)
    (v1 v2 : DWord) (s : State) : execPass (fun _ => alu id) p v1 v2 s = execPass alu p v1 v2 s := by
  simp only [execPass, aluCall, h]

/-- `memPass` calls the register's own memory handler and no other. -/
theorem memPass_handler {memop : Mnemonic → MemIn → Memory → Except Fault MemOut}
    {mem : MemIn → Memory → Except Fault MemOut} {p : PipeReg} {id : Mnemonic}
    (h : p.memOp = true → p.memId = some id ∧ mem = memop id) (m : Memory) :
    memPass (fun _ => mem) p m = memPass memop p m := by
  cases hop : p.memOp
  · rw [memPass_through hop, memPass_through hop]
  · obtain ⟨hid, rfl⟩ := h hop
    simp only [memPass, hid]

/-- Memory and Writeback of an instruction that is neither a system call nor illegal. -/
theorem finishAlone_eq {mem : MemIn → Memory → Except Fault MemOut} {q : PipeReg} {id : Mnemonic} (hs : q.isSyscall = false)
    (hi : q.isIllegal = false) (h : q.memOp = true → q.memId = some id ∧ mem = refMemop id) (s : State) :
    finishAlone mem q s = toOutcome (do let (r, t) ← memoryPart q s; retirePart r t) := by
  rw [finishAlone, memoryPart, memPass_handler h]
  cases hx : memPass refMemop q s.mem with
  | error r => rfl
  | ok x =>
    obtain ⟨r, m⟩ := x
    have hflags : r.isSyscall = false ∧ r.isIllegal = false := by
      rcases memPass_cases hx with ⟨rfl, -, -⟩ | ⟨-, -, -, id, o, -, -, rfl, -⟩ <;> exact ⟨hs, hi⟩
    simp [Except.map, bind, Except.bind, retirePart, hflags, toOutcome]

theorem runAlone_eq_passage {w : Word} {d : DecodeInfo} {id : Mnemonic} {mem : MemIn → Memory → Except Fault MemOut}
    (hs : d.isSyscall = false) (ha : d.aluId = some id) (hm : d.memOp = true → d.memId = some id ∧ mem = refMemop id)
    (s : State) : runAlone w d (refAlu id) mem s = toOutcome (passage (soloRegister s w d) (s.setPc (s.pc + 4))) := by
  have hx : executePart (soloRegister s w d) (s.setPc (s.pc + 4)) =
      execPass (fun _ => refAlu id) (soloRegister s w d) (s.readOp d.fpDouble d.src1) (s.readOp d.fpDouble d.src2)
        (s.setPc (s.pc + 4)) := by
    rw [execPass_handler ha]
    simp [executePart, soloRegister, decoded, hs]
  rw [runAlone, passage, ← hx]
  cases h : executePart (soloRegister s w d) (s.setPc (s.pc + 4)) with
  | error r => rfl
  | ok x =>
    obtain ⟨q, t⟩ := x
    obtain ⟨-, hsys, hill, hop, hid⟩ := executePart_keeps h
    refine finishAlone_eq (id := id) (hsys.trans hs) hill (fun hq => ?_) t
    rw [hid]
    exact hm (hop.symm.trans hq)

/-- The reference services, as Writeback hands a call to them (46_reference_isa_fp.md R262; 43_memory_writeback.md R148). -/
theorem handSyscall_ref (s : State) (q : PipeReg) :
    handSyscall refSyscall s q =
      if s.x[2] = 10 then .ok (s.afterSyscall q true)
      else if s.x[2] = 30 then
        .ok ((((s.tookTime s.nextTime).writeGpr 4 (low32 s.nextTime)).writeGpr 5 (high32 s.nextTime)).afterSyscall q false)
      else .error (.unknownSyscall s.x[2]) := by
  rw [handSyscall, refSyscall_run]
  by_cases h10 : s.x[2] = 10
  · rw [if_pos h10, if_pos h10]; rfl
  · rw [if_neg h10, if_neg h10]
    by_cases h30 : s.x[2] = 30
    · rw [if_pos h30, if_pos h30]; rfl
    · rw [if_neg h30, if_neg h30]; rfl

/-- A system call passes Execute and Memory untouched (42_execute_delay_slot.md R130). -/
theorem runSyscallAlone_eq_passage {w : Word} {d : DecodeInfo} (hs : d.isSyscall = true) (hm : d.memOp = false) (s : State) :
    runSyscallAlone w d refSyscall s = toOutcome (passage (soloRegister s w d) (s.setPc (s.pc + 4))) := by
  have hsys : (soloRegister s w d).isSyscall = true := hs
  have hill : (soloRegister s w d).isIllegal = false := rfl
  cases hb : s.bdPending
  · have hcall : handSyscall refSyscall (s.setPc (s.pc + 4)) (soloRegister s w d) =
        handSyscall refSyscall s (soloRegister s w d) := by
      rw [handSyscall_ref, handSyscall_ref]; rfl
    have hpassage : passage (soloRegister s w d) (s.setPc (s.pc + 4)) =
        (handSyscall refSyscall (s.setPc (s.pc + 4)) (soloRegister s w d)).map State.forceX0 := by
      have hexecute : executePart (soloRegister s w d) (s.setPc (s.pc + 4)) = .ok (soloRegister s w d, s.setPc (s.pc + 4)) := by
        simp [executePart, hsys, hill, hb]
      rw [passage, hexecute]
      show (do let (r, u) ← memoryPart (soloRegister s w d) (s.setPc (s.pc + 4)); retirePart r u) = _
      rw [memoryPart_through hm]
      exact if_pos hsys
    rw [hpassage, hcall, runSyscallAlone, hb]
    cases handSyscall refSyscall s (soloRegister s w d) <;> rfl
  · have hexecute : executePart (soloRegister s w d) (s.setPc (s.pc + 4)) = .error (.controlInDelaySlot s.pc) := by
      simp [executePart, hsys, hill, hb, show (soloRegister s w d).pc = s.pc from rfl]
    rw [passage, hexecute, runSyscallAlone, hb]
    rfl

/-- The meaning of an instruction is the passage of its canonical word (log entry 1). -/
theorem exec_eq_passage_encode {i : Instr} (hwf : i.wellFormed = true) (s : State) :
    exec i s = toOutcome (passage (soloRegister s (encode i) (infoOf i (encode i))) (s.setPc (s.pc + 4))) := by
  by_cases h : i = .syscall
  · subst h
    exact runSyscallAlone_eq_passage rfl rfl s
  · obtain ⟨mem, hmem, hexec⟩ := exec_eq_runAlone hwf h s
    have hs : (infoOf i (encode i)).isSyscall = false := by simp [isSyscall_infoOf, h]
    rw [hexec]
    exact runAlone_eq_passage hs (aluId_infoOf h _) (fun hop => ⟨memId_infoOf i _ hop, hmem hop⟩) s

/-- The meaning of an instruction is the passage of any word that decodes to it, whatever its don't-care bits. -/
theorem exec_eq_passage {w : Word} {i : Instr} (h : decode w = .ok i) (s : State) :
    exec i s = toOutcome (do let p ← decodePart s w; passage p (s.setPc (s.pc + 4))) := by
  obtain ⟨hwf, hbits⟩ := decode_ok h
  have hdecode : decodePart s w = .ok (soloRegister s w (infoOf i w)) := by
    simp only [decodePart, Cfg.reference, refDecode, h]
  have hmem : (soloRegister s w (infoOf i w)).memOp = true → (soloRegister s w (infoOf i w)).memId.isSome = true :=
    fun hop => Option.isSome_of_eq_some (memId_infoOf i w hop)
  have halu : ∀ id, (soloRegister s w (infoOf i w)).aluId = some id →
      ∀ a : AluIn, refAlu id (a.reword (encode i)) = refAlu id (a.reword w) := by
    intro id hid a
    by_cases hs : i = .syscall
    · subst hs
      cases hid
    · cases (aluId_infoOf hs w).symm.trans hid
      rw [hbits, refAlu_masked]
  have hword := passage_reword (s.setPc (s.pc + 4)) hmem halu
  rw [soloRegister_reword, soloRegister_reword] at hword
  rw [exec_eq_passage_encode hwf, hword, hdecode]
  rfl

end Sys2Proof.Machine
end

section
/-! SUPPORT. The pipe with one instruction in it: each tick does the next stage's part of `passage`, so the ticks from Fetch or
Decode to Writeback do the sequential step (40_clock_fetch.md R83, R94; 70_reset_and_hazards.md R307, R312). -/

namespace Sys2Proof.Machine

/-! ## Agreement of two states -/

theorem SameArch.trans {s t u : State} (h : SameArch s t) (k : SameArch t u) : SameArch s u := by
  cases h; cases k; constructor <;> simp [*]

/-- The two states have the same architecture but for the contents of `x[0]`, which the end of Writeback clears
(43_memory_writeback.md R154). -/
def Agree (s t : State) : Prop := SameArch s.forceX0 t.forceX0

/-- Agreement is kept by a change that `SameArch` does not see. -/
theorem Agree.of_sameArch {s t u : State} (h : Agree t u) (k : SameArch s t) : Agree s u :=
  SameArch.trans (by cases k; constructor <;> simp [*]) h

theorem State.forceX0_of_x0 {s : State} (h : s.x[0] = 0) : s.forceX0 = s := by
  have hx : s.x.set 0 0 = s.x := by
    apply Vector.ext
    intro i hi
    by_cases h0 : 0 = i
    · subst h0; simp [h]
    · simp [Vector.getElem_set_ne, h0]
  rw [State.forceX0, hx]

theorem State.forceX0_forceX0 (s : State) : s.forceX0.forceX0 = s.forceX0 := State.forceX0_of_x0 (by simp)

theorem Agree.forceX0_left (s : State) : Agree s.forceX0 s := by
  rw [Agree, State.forceX0_forceX0]
  constructor <;> rfl

theorem State.readGpr_eq_forceX0 (s : State) (i : RegIdx) : s.readGpr i = s.forceX0.x[i] :=
  (s.forceX0_getElem i).symm

section
variable {s t : State} (h : Agree s t)
include h

theorem Agree.readGpr (i : RegIdx) : s.readGpr i = t.readGpr i := by
  rw [State.readGpr_eq_forceX0, State.readGpr_eq_forceX0, h.x]

theorem Agree.readOp (dbl : Bool) (r : SrcRef) : s.readOp dbl r = t.readOp dbl r := by
  have hf : s.f = t.f := h.f
  cases r with
  | none => rfl
  | gpr i => simp [h.readGpr]
  | fpr i => simp [State.readOp, State.readFprPair, State.readFpr, hf]

theorem Agree.mem_eq : s.mem = t.mem := h.mem

theorem Agree.withMem (m : Memory) : Agree (s.withMem m) (t.withMem m) :=
  { (h : SameArch s.forceX0 t.forceX0) with mem := rfl }

theorem Agree.resolveDelaySlot (c : Bool) (cat : CatSet) (out : AluOut) :
    Agree ((if c then s.bump cat else s).resolveDelaySlot out) ((if c then t.bump cat else t).resolveDelaySlot out) := by
  cases h
  cases c <;> constructor <;> simp_all

end

/-- Register files that are equal but for register 0 stay so when the same register is written in both. -/
theorem set_clear_congr {x y : Vector Word 32} (h : x.set 0 0 = y.set 0 0) (i : RegIdx) (v : Word) :
    (x.set i v).set 0 0 = (y.set i v).set 0 0 := by
  by_cases h0 : i = 0
  · subst h0
    simpa using h
  · have hne : i.val ≠ 0 := fun hv => h0 (Fin.ext hv)
    rw [Vector.set_comm _ _ hne, Vector.set_comm _ _ hne, h]

section
variable {s t : State} (h : Agree s t)
include h

theorem Agree.writeGpr (i : RegIdx) (v : Word) : Agree (s.writeGpr i v) (t.writeGpr i v) :=
  { (h : SameArch s.forceX0 t.forceX0) with x := set_clear_congr h.x i v }

theorem Agree.commitReg (q : PipeReg) : Agree (s.commitReg q) (t.commitReg q) := by
  have hx : s.x.set 0 0 = t.x.set 0 0 := h.x
  cases h
  constructor
  case x =>
    cases hw : q.writeReg
    · simpa [hw] using hx
    · simpa [hw] using set_clear_congr hx q.dst q.resLo
  all_goals simp_all

theorem Agree.tookTime (v : DWord) : Agree (s.tookTime v) (t.tookTime v) :=
  { (h : SameArch s.forceX0 t.forceX0) with draws := congrArg (· + 1) h.draws, lastTime := rfl }

theorem Agree.afterSyscall (q : PipeReg) (e : Bool) : Agree (s.afterSyscall q e) (t.afterSyscall q e) :=
  { (h : SameArch s.forceX0 t.forceX0) with pc := rfl }

theorem Agree.nextTime : s.nextTime = t.nextTime := by
  have hd : s.draws = t.draws := h.draws
  have hl : s.lastTime = t.lastTime := h.lastTime
  rw [State.nextTime, State.nextTime, hd, hl]

end

/-! ## Two answers side by side -/

/-- Both answer with related values, or both with the same fault. -/
def Matches {α β : Type} (R : α → β → Prop) : Except Fault α → Except Fault β → Prop
  | .ok a, .ok b => R a b
  | .error r, .error q => r = q
  | _, _ => False

theorem Matches.map_left {α β γ : Type} {R : α → β → Prop} {S : γ → β → Prop} {x : Except Fault α}
    {y : Except Fault β} {f : α → γ} (h : Matches R x y) (hf : ∀ a b, R a b → S (f a) b) : Matches S (x.map f) y := by
  cases x <;> cases y
  case ok.ok a b => exact hf a b h
  case error.error => exact h
  all_goals exact False.elim h

/-- The left side goes on with work that succeeds and that the right side has not. -/
theorem Matches.bind_left {α β γ : Type} {R : α → β → Prop} {S : γ → β → Prop} {x : Except Fault α}
    {y : Except Fault β} {f : α → Except Fault γ} (h : Matches R x y)
    (hf : ∀ a b, x = .ok a → y = .ok b → R a b → ∃ c, f a = .ok c ∧ S c b) :
    Matches S (x >>= f) y := by
  cases x <;> cases y
  case ok.ok a b =>
    obtain ⟨c, hc, hS⟩ := hf a b rfl rfl h
    show Matches S (f a) (.ok b)
    rw [hc]
    exact hS
  case error.error => exact h
  all_goals exact False.elim h

/-! ## Runs that end as a given answer -/

/-- `k` ticks from `s` end the run in the architecture of the given state, or fault as given. -/
def EndsAs (k : Nat) (s : State) : Except Fault State → Prop
  | .ok t => ∃ u, run k s = .next u ∧ SameArch u t ∧ u.exit = true
  | .error r => run k s = .fault r

/-- In the form of the statements about `exec`. -/
theorem EndsAs.of_outcome {k : Nat} {s : State} {x : Except Fault State} (h : EndsAs k s x) :
    (∀ t, toOutcome x = .next t → ∃ u, run k s = .next u ∧ SameArch u t ∧ u.exit = true) ∧
    (∀ r, toOutcome x = .fault r → run k s = .fault r) := by
  cases x with
  | ok t => simpa [toOutcome, EndsAs] using h
  | error r => simpa [toOutcome, EndsAs] using h

theorem run_succ_of_next {k : Nat} {s t : State} (h : step s = .next t) : run (k + 1) s = run k t := by
  have hs : core.step s = .next t := h
  simp only [run, Host.Core.run, hs]
  rfl

theorem run_succ_of_fault {k : Nat} {s : State} {r : Fault} (h : step s = .fault r) : run (k + 1) s = .fault r := by
  have hs : core.step s = .fault r := h
  simp only [run, Host.Core.run, hs]
  rfl

/-- One tick does the first part of a sequential answer, the ticks after it the rest. -/
theorem EndsAs.bind {α : Type} {R : State → α → Prop} {k : Nat} {s : State} {x : Except Fault α}
    {f : α → Except Fault State} (hlive : s.mayTick = true) (h : Matches R (tick Cfg.reference s) x)
    (hf : ∀ t a, R t a → EndsAs k t (f a)) : EndsAs (k + 1) s (x >>= f) := by
  have hstep := step_of_mayTick hlive
  cases ht : tick Cfg.reference s <;> cases x <;> rw [ht] at h hstep
  case ok.ok t a =>
    have hrest := hf t a h
    show EndsAs (k + 1) s (f a)
    cases hfa : f a <;> rw [hfa] at hrest <;> simpa only [EndsAs, run_succ_of_next hstep] using hrest
  case error.error r q =>
    cases h
    exact run_succ_of_fault hstep
  all_goals exact False.elim h

/-! ## What each stage does of the sequential answer -/

section
variable {s u : State} (h : Agree s u)
include h

theorem Agree.executePart (p : PipeReg) :
    Matches (fun a b => a.1 = b.1 ∧ Agree a.2 b.2) (executePart p s) (executePart p u) := by
  have hb : s.bdPending = u.bdPending := h.bdPending
  have hhi : s.hi = u.hi := h.hi
  have hlo : s.lo = u.lo := h.lo
  unfold Machine.executePart
  split
  · exact ⟨rfl, h⟩
  · split
    · rw [hb]
      split
      · rfl
      · exact ⟨rfl, h⟩
    · simp only [execPass, hhi, hlo, hb]
      split
      · rfl
      · split
        · rfl
        · exact ⟨rfl, h.resolveDelaySlot _ _ _⟩

theorem Agree.handSyscall (q : PipeReg) :
    Matches Agree (handSyscall refSyscall s q) (handSyscall refSyscall u q) := by
  have hx : s.x[2] = u.x[2] := h.readGpr 2
  rw [handSyscall_ref, handSyscall_ref, hx, h.nextTime]
  split
  · exact h.afterSyscall q true
  · split
    · exact (((h.tookTime _).writeGpr 4 _).writeGpr 5 _).afterSyscall q false
    · rfl

end

/-- Execute, with nothing to forward. -/
theorem exStep_eq_executePart {s : State} (hreal : s.idEx.cur.isNop = false) (h1 : s.idEx.cur.fwd1 = .none)
    (h2 : s.idEx.cur.fwd2 = .none) :
    exStep Cfg.reference s = (executePart s.idEx.cur s).map fun a => a.2.putExMem a.1 := by
  simp only [exStep, executePart, hreal, h1, h2, fwdVal, Bool.false_eq_true, if_false]
  split
  · rfl
  · split
    · split <;> rfl
    · show _ = (execPass Cfg.reference.alu _ _ _ _).map _
      cases execPass Cfg.reference.alu s.idEx.cur s.idEx.cur.val1 s.idEx.cur.val2 s <;> rfl

theorem memStep_eq_memoryPart (s : State) :
    memStep Cfg.reference s = (memoryPart s.exMem.cur s).map fun a => a.2.putMemWb a.1 := by
  rw [memStep, memoryPart]
  show _ = ((memPass Cfg.reference.memop _ _).map _).map _
  cases memPass Cfg.reference.memop s.exMem.cur s.mem <;> rfl

theorem Agree.memoryPart {s u : State} (h : Agree s u) (p : PipeReg) :
    Matches (fun a b => a.1 = b.1 ∧ Agree a.2 b.2) (memoryPart p s) (memoryPart p u) := by
  rw [Machine.memoryPart, Machine.memoryPart, h.mem_eq]
  cases memPass refMemop p u.mem with
  | error r => rfl
  | ok a => exact ⟨rfl, h.withMem a.2⟩

/-- Writeback of a real instruction. -/
theorem wbStep_matches {s u : State} (h : Agree s u) (hx0 : s.x[0] = 0) (hreal : s.memWb.cur.isNop = false) :
    Matches SameArch (wbStep Cfg.reference s) (retirePart s.memWb.cur u) := by
  have hservices : Cfg.reference.syscall = refSyscall := rfl
  simp only [wbStep, retirePart, hreal, hservices, Bool.false_eq_true, if_false]
  split
  · have hcall := h.handSyscall s.memWb.cur
    cases hs : Machine.handSyscall refSyscall s s.memWb.cur <;> cases hu : Machine.handSyscall refSyscall u s.memWb.cur <;>
      rw [hs, hu] at hcall <;> exact hcall
  · split
    · have hs : SameArch s u.forceX0 := State.forceX0_of_x0 hx0 ▸ h
      exact { hs with }
    · exact h.commitReg s.memWb.cur

/-! ## Ticks of a pipe that nothing enters -/

theorem memStep_of_bubble {c : Cfg} {s : State} (h : s.exMem.cur.isNop = true) :
    memStep c s = .ok (s.putMemWb s.exMem.cur) := by
  have hpass : memPass c.memop s.exMem.cur s.mem = .ok (s.exMem.cur, s.mem) := by simp [memPass, h]
  rw [memStep, hpass]
  rfl

theorem exStep_of_bubble {c : Cfg} {s : State} (h : s.idEx.cur.isNop = true) : exStep c s = .ok (s.putExMem bubble) := if_pos h

theorem idStep_of_bubble {c : Cfg} {s : State} (h : s.ifId.cur.isNop = true) :
    idStep c s = .ok ((s.setStall false).putIdEx bubble) := if_pos h

theorem ifStep_of_budget {s : State} (hb : s.budgetReached = true) (hs : s.stall = false) :
    ifStep s = .ok (s.putIfId bubble) :=
  ifStep_of_disabled (by simp [State.fetchEn, hb]) hs

theorem ok_bind {α β : Type} (a : α) (f : α → Except Fault β) : ((.ok a : Except Fault α) >>= f) = f a := rfl

theorem afterWriteback_of_live {c : Cfg} {s : State} (h : s.exit = false) :
    afterWriteback c s = (do
      let s ← memStep c s
      let s ← exStep c s
      let s ← idStep c s
      let s ← ifStep s
      return s.commit) := if_neg (by simp [h])

theorem tick_of_bubble {c : Cfg} {s : State} (h : s.memWb.cur.isNop = true) : tick c s = afterWriteback c s.forceX0 := by
  rw [tick, wbStep_of_bubble h, ok_bind]

/-- The end of a tick that fetches nothing: a bubble goes to Decode. -/
def State.closeTick (s : State) : State := (s.putIfId bubble).commit

/-- The rest of a tick after Execute, with nothing in Decode and a reached budget. -/
theorem front_of_empty {c : Cfg} {s : State} (hd : s.ifId.cur.isNop = true) (hb : s.budgetReached = true) :
    (do let s ← idStep c s; let s ← ifStep s; return s.commit) = Except.ok (((s.setStall false).putIdEx bubble).closeTick) := by
  have hbudget : ((s.setStall false).putIdEx bubble).budgetReached = true := hb
  rw [idStep_of_bubble hd, ok_bind, ifStep_of_budget hbudget rfl]
  rfl

theorem State.budgetReached_congr {s t : State} (h1 : s.instrBudget = t.instrBudget) (h2 : s.nFetched = t.nFetched) :
    s.budgetReached = t.budgetReached := by
  rw [State.budgetReached, State.budgetReached, h1, h2]

/-- After Writeback of the last instruction of a reached budget, the run has ended. -/
theorem afterWriteback_of_empty {c : Cfg} {s : State} (hd : s.ifId.cur.isNop = true) (hx : s.idEx.cur.isNop = true)
    (hm : s.exMem.cur.isNop = true) (hb : s.budgetReached = true) (hp : s.syscallPending = false) :
    ∃ t, afterWriteback c s = .ok t ∧ SameArch t s ∧ t.exit = true := by
  cases he : s.exit
  · have hfront := front_of_empty (c := c) (s := (s.putMemWb s.exMem.cur).putExMem bubble) hd hb
    have hrest : afterWriteback c s =
        .ok ((((s.putMemWb s.exMem.cur).putExMem bubble).setStall false).putIdEx bubble).closeTick := by
      rw [afterWriteback_of_live he, memStep_of_bubble hm, ok_bind, exStep_of_bubble (by exact hx), ok_bind, hfront]
    refine ⟨_, hrest, ?_, ?_⟩
    · constructor <;> simp [State.closeTick]
    · rw [State.closeTick, State.commit_exit _ (by exact he)]
      simp [State.drained, hm, hp, bubble, State.budgetReached_congr (t := s), hb]
  · exact ⟨s.countCycle, if_pos he, by constructor <;> rfl, he⟩

/-! ## Where the lone instruction is -/

/-- The core may tick, the budget lets nothing more in, and the state agrees with the sequential state `u`. -/
structure Quiet (s u : State) (syscall : Bool) : Prop where
  live : s.mayTick = true
  budget : s.budgetReached = true
  agree : Agree s u
  syscallPending : s.syscallPending = syscall

/-- The word `w`, fetched at the sequential program counter, is in Decode. -/
structure InDecode (s u : State) (w : Word) : Prop extends Quiet s (u.setPc (u.pc + 4)) false where
  here : s.ifId.cur = fetched u.pc w
  execute : s.idEx.cur.isNop = true
  memory : s.exMem.cur.isNop = true
  writeback : s.memWb.cur.isNop = true

/-- The register `p` is in Execute, with nothing to forward to it. -/
structure InExecute (s u : State) (p : PipeReg) : Prop extends Quiet s u p.isSyscall where
  here : s.idEx.cur = p
  real : p.isNop = false
  tags : p.fwd1 = .none ∧ p.fwd2 = .none
  decode : s.ifId.cur.isNop = true
  memory : s.exMem.cur.isNop = true
  writeback : s.memWb.cur.isNop = true

/-- The register `q` that Execute made is in Memory. -/
structure InMemory (s u : State) (q : PipeReg) : Prop extends Quiet s u q.isSyscall where
  here : s.exMem.cur = q
  real : q.isNop = false
  decode : s.ifId.cur.isNop = true
  execute : s.idEx.cur.isNop = true
  writeback : s.memWb.cur.isNop = true

/-- The register `r` that Memory made is in Writeback; the bubble before it has cleared `x[0]`. -/
structure InWriteback (s u : State) (r : PipeReg) : Prop extends Quiet s u r.isSyscall where
  here : s.memWb.cur = r
  real : r.isNop = false
  x0 : s.x[0] = 0
  decode : s.ifId.cur.isNop = true
  execute : s.idEx.cur.isNop = true
  memory : s.exMem.cur.isNop = true

theorem Quiet.budget_of_countFrame {s v u : State} {b : Bool} (h : Quiet s u b) (hcount : CountFrame 0 0 s v) :
    v.budgetReached = true :=
  (State.budgetReached_congr hcount.instrBudget hcount.nFetched).trans h.budget

/-- The end of a tick that has handed the instruction on. -/
theorem Quiet.closeTick {s v u u' : State} {b b' : Bool} (h : Quiet s u b) (hcount : CountFrame 0 0 s v)
    (hexit : v.exit = false) (hagree : Agree v u') (hsyscall : v.syscallPending = b')
    (hbusy : (v.idEx.nxt.isNop && v.exMem.nxt.isNop && v.memWb.nxt.isNop) = false) : Quiet v.closeTick u' b' := by
  obtain ⟨hbooted, -, hfault⟩ := State.mayTick_iff.mp h.live
  have hended : v.closeTick.exit = false := by
    rw [State.closeTick, State.commit_exit _ (by exact hexit)]
    have hdrained : ((v.putIfId bubble).commit).drained = false := by simpa [State.drained, bubble, and_assoc] using hbusy
    simp [hdrained]
  refine ⟨State.mayTick_iff.mpr ⟨?_, hended, ?_⟩, ?_, hagree.of_sameArch ?_, ?_⟩
  · simp [State.closeTick, hcount.booted, hbooted]
  · simp [State.closeTick, hcount.fault, hfault]
  · rw [State.budgetReached_congr (t := s), h.budget] <;> simp [State.closeTick, hcount.instrBudget, hcount.nFetched]
  · constructor <;> simp [State.closeTick]
  · simpa [State.closeTick] using hsyscall

/-- With nothing ahead, a source neither stalls nor takes a bypass (41_decode_hazard.md R109). -/
theorem selectSrc_of_bubbles {mode : ForwardMode} {e m : PipeReg} (he : e.isNop = true) (hm : m.isNop = true) (r : SrcRef) :
    selectSrc mode e m r = (false, .none) := by
  have hgpr : ∀ p : PipeReg, p.isNop = true → ∀ i, p.matchesSrc i = false := by
    intro p hp i
    cases i <;> simp [PipeReg.matchesSrc, PipeReg.writesGpr, PipeReg.writesFprPair, PipeReg.real, hp]
  cases r with
  | none => rfl
  | fpr i => simp [selectSrc, hgpr e he, hgpr m hm]
  | gpr i => cases mode <;> simp [selectSrc, selectBypass, hgpr e he, hgpr m hm]

theorem stallDecision_of_bubbles {mode : ForwardMode} {e m : PipeReg} (d : DecodeInfo) (he : e.isNop = true)
    (hm : m.isNop = true) : stallDecision mode d e m = false := by
  simp [stallDecision, selectSrc_of_bubbles he hm, hiloStall, PipeReg.writesHiLo, PipeReg.real, he, hm]

/-! ## One tick per stage -/

/-- Decode hands the register `p` to Execute and raises the pending flag it asks for (41_decode_hazard.md R112, R117, R118). -/
def State.handToExecute (s : State) (p : PipeReg) : State :=
  if p.isIllegal then ((s.setStall false).putIdEx p).raiseIllegal
  else ((s.setStall false).putIdEx p).raiseSyscall p.isSyscall

theorem State.handToExecute_sameArch (s : State) (p : PipeReg) : SameArch (s.handToExecute p) s := by
  unfold State.handToExecute
  split <;> constructor <;> simp

theorem State.handToExecute_countFrame (s : State) (p : PipeReg) : CountFrame 0 0 s (s.handToExecute p) := by
  unfold State.handToExecute
  split <;> constructor <;> simp

@[simp] theorem State.handToExecute_idEx (s : State) (p : PipeReg) : (s.handToExecute p).idEx.nxt = p := by
  unfold State.handToExecute
  split <;> rfl
@[simp] theorem State.handToExecute_exMem (s : State) (p : PipeReg) : (s.handToExecute p).exMem = s.exMem := by
  unfold State.handToExecute
  split <;> rfl
@[simp] theorem State.handToExecute_memWb (s : State) (p : PipeReg) : (s.handToExecute p).memWb = s.memWb := by
  unfold State.handToExecute
  split <;> rfl
@[simp] theorem State.handToExecute_stall (s : State) (p : PipeReg) : (s.handToExecute p).stall = false := by
  unfold State.handToExecute
  split <;> rfl
@[simp] theorem State.handToExecute_exit (s : State) (p : PipeReg) : (s.handToExecute p).exit = s.exit := by
  unfold State.handToExecute
  split <;> rfl
theorem State.handToExecute_syscallPending {p : PipeReg} (h : p.isIllegal = true → p.isSyscall = false) (s : State) :
    (s.handToExecute p).syscallPending = (p.isSyscall || s.syscallPending) := by
  unfold State.handToExecute
  cases hi : p.isIllegal <;> simp_all

theorem decodePart_flags {s : State} {w : Word} {p : PipeReg} (h : decodePart s w = .ok p) :
    p.isNop = false ∧ p.fwd1 = .none ∧ p.fwd2 = .none ∧ (p.isIllegal = true → p.isSyscall = false) := by
  unfold decodePart at h
  split at h <;> cases h
  · exact ⟨rfl, rfl, rfl, nofun⟩
  · exact ⟨rfl, rfl, rfl, fun _ => rfl⟩

/-- Decode with nothing ahead: the register reads its operands from the files. -/
theorem idStep_eq_decodePart {s u : State} {w : Word} (hread : ∀ dbl r, s.readOp dbl r = u.readOp dbl r)
    (hd : s.ifId.cur = fetched u.pc w) (he : s.idEx.cur.isNop = true) (hm : s.exMem.cur.isNop = true) :
    idStep Cfg.reference s = (decodePart u w).map s.handToExecute := by
  have hreal : (fetched u.pc w).isNop = false := rfl
  have hins : (fetched u.pc w).ins = w := rfl
  simp only [idStep, decodePart, hd, hreal, hins, Bool.false_eq_true, if_false]
  cases hw : Cfg.reference.decode w with
  | unmodelled why => rfl
  | illegal => rfl
  | legal d =>
    have hlegal : idLegal s d = s.handToExecute (soloRegister u w d) := by
      simp only [idLegal, hd, stallDecision_of_bubbles d he hm, selectSrc_of_bubbles he hm, hread, Bool.false_eq_true, if_false]
      rfl
    simp [referenceDecoderMeetsContract w d hw, hlegal, Except.map]

/-- Writeback and Memory of a tick in which both hold bubbles. -/
def State.openTick (s : State) : State := s.forceX0.putMemWb s.exMem.cur

theorem State.openTick_countFrame (s : State) : CountFrame 0 0 s s.openTick := by constructor <;> rfl

theorem Agree.clear {s u : State} (h : Agree s u) : Agree s.forceX0 u := SameArch.trans (Agree.forceX0_left s) h

theorem Agree.openTick {s u : State} (h : Agree s u) : Agree s.openTick u := h.clear.of_sameArch (by constructor <;> rfl)

theorem tick_of_bubbles {c : Cfg} {s : State} (hlive : s.mayTick = true) (hw : s.memWb.cur.isNop = true)
    (hm : s.exMem.cur.isNop = true) :
    tick c s = (do
      let s ← exStep c s.openTick
      let s ← idStep c s
      let s ← ifStep s
      return s.commit) := by
  obtain ⟨-, hexit, -⟩ := State.mayTick_iff.mp hlive
  rw [tick_of_bubble hw, afterWriteback_of_live (by exact hexit), memStep_of_bubble (by exact hm), ok_bind]
  rfl

/-- The rest of a tick after Execute, with nothing in Decode, when it has handed the instruction on. -/
theorem Quiet.closeEmpty {s v u u' : State} {b b' : Bool} (h : Quiet s u b) (hcount : CountFrame 0 0 s v)
    (hexit : v.exit = false) (hagree : Agree v u') (hsyscall : v.syscallPending = b') (hd : v.ifId.cur.isNop = true)
    (hbusy : (v.exMem.nxt.isNop && v.memWb.nxt.isNop) = false) :
    ∃ t, (do let s ← idStep Cfg.reference v; let s ← ifStep s; return s.commit) = Except.ok t ∧ Quiet t u' b' ∧
      t.ifId.cur.isNop = true ∧ t.idEx.cur.isNop = true ∧ t.exMem.cur = v.exMem.nxt ∧ t.memWb.cur = v.memWb.nxt ∧
      t.x = v.x := by
  have hb := h.budget_of_countFrame hcount
  have hcount' : CountFrame 0 0 s ((v.setStall false).putIdEx bubble) :=
    hcount.trans (idStep_countFrame (c := Cfg.reference) (idStep_of_bubble hd))
  have hquiet := h.closeTick hcount' hexit (hagree.of_sameArch (by constructor <;> rfl)) hsyscall (by simpa using fun _ => hbusy)
  exact ⟨_, front_of_empty hd hb, hquiet, by simp [State.closeTick, bubble], by simp [State.closeTick, bubble],
    by simp [State.closeTick], by simp [State.closeTick], by simp [State.closeTick]⟩

section
variable {s u : State} {w : Word} {p q r : PipeReg}

/-! Each tick does its stage's part and hands the result on to the next stage. -/

theorem InDecode.tick (h : InDecode s u w) :
    Matches (fun t p => InExecute t (u.setPc (u.pc + 4)) p) (tick Cfg.reference s) (decodePart u w) := by
  obtain ⟨-, hexit, -⟩ := State.mayTick_iff.mp h.live
  have hagree : Agree (s.openTick.putExMem bubble) (u.setPc (u.pc + 4)) := h.agree.openTick.of_sameArch (by constructor <;> rfl)
  have hread : ∀ dbl r, (s.openTick.putExMem bubble).readOp dbl r = u.readOp dbl r := by
    intro dbl r
    have hr := hagree.readOp dbl r
    cases r <;> exact hr
  rw [tick_of_bubbles h.live h.writeback h.memory, exStep_of_bubble (by exact h.execute), ok_bind,
    idStep_eq_decodePart hread h.here h.execute h.memory]
  cases hp : decodePart u w with
  | error r => rfl
  | ok p =>
    obtain ⟨hreal, h1, h2, hillegal⟩ := decodePart_flags hp
    have hcount : CountFrame 0 0 s ((s.openTick.putExMem bubble).handToExecute p) :=
      (s.openTick_countFrame.trans (exStep_countFrame (c := Cfg.reference) (exStep_of_bubble h.execute))).trans
        ((s.openTick.putExMem bubble).handToExecute_countFrame p)
    have hb := h.budget_of_countFrame hcount
    have hquiet := h.closeTick (b' := p.isSyscall) hcount (by simp [State.openTick, hexit])
      (hagree.of_sameArch ((s.openTick.putExMem bubble).handToExecute_sameArch p))
      (by simp [State.handToExecute_syscallPending hillegal, State.openTick, h.syscallPending])
      (by simp [hreal])
    have htick : (do let s ← ifStep ((s.openTick.putExMem bubble).handToExecute p); return s.commit) =
        Except.ok ((s.openTick.putExMem bubble).handToExecute p).closeTick := by
      rw [ifStep_of_budget hb (by simp)]
      rfl
    rw [show Except.map _ (Except.ok p) = Except.ok _ from rfl, ok_bind, htick]
    exact { hquiet with
      here := by simp [State.closeTick]
      real := hreal
      tags := ⟨h1, h2⟩
      decode := by simp [State.closeTick, bubble]
      memory := by simp [State.closeTick, bubble]
      writeback := by simpa [State.closeTick, State.openTick] using h.memory }

theorem InExecute.tick (h : InExecute s u p) :
    Matches (fun t a => InMemory t a.2 a.1) (tick Cfg.reference s) (executePart p u) := by
  obtain ⟨-, hexit, -⟩ := State.mayTick_iff.mp h.live
  have hhere : s.openTick.idEx.cur = p := h.here
  have hex : Matches (fun v a => v.exMem.nxt = a.1 ∧ Agree v a.2) (exStep Cfg.reference s.openTick) (executePart p u) := by
    rw [exStep_eq_executePart (by rw [hhere, h.real]) (by rw [hhere, h.tags.1]) (by rw [hhere, h.tags.2]), hhere]
    exact (h.agree.openTick.executePart p).map_left fun a b ⟨hreg, hag⟩ => ⟨hreg, hag.of_sameArch (by constructor <;> rfl)⟩
  rw [tick_of_bubbles h.live h.writeback h.memory]
  refine hex.bind_left fun v a hv ha ⟨hreg, hag⟩ => ?_
  obtain ⟨q, u'⟩ := a
  obtain ⟨hnop, hsyscall, -, -, -⟩ := executePart_keeps ha
  obtain ⟨hifId, -, -, hmemWb, -, hpending, -, -, -, -, -, -, -, -, -, hvexit, -⟩ := exStep_keeps hv
  obtain ⟨t, ht, hquiet, hd, he, hm, hw, -⟩ := h.closeEmpty (s.openTick_countFrame.trans (exStep_countFrame hv))
    (hvexit.trans hexit) hag (b' := q.isSyscall) (by rw [hpending, hsyscall]; exact h.syscallPending)
    (by rw [hifId]; exact h.decode) (by simp [hreg, hnop, h.real])
  exact ⟨t, ht, { hquiet with
    here := hm.trans hreg
    real := hnop.trans h.real
    decode := hd
    execute := he
    writeback := by rw [hw, hmemWb]; exact h.memory }⟩

theorem InMemory.tick (h : InMemory s u q) :
    Matches (fun t a => InWriteback t a.2 a.1) (tick Cfg.reference s) (memoryPart q u) := by
  obtain ⟨-, hexit, -⟩ := State.mayTick_iff.mp h.live
  have hmem : Matches (fun v a => v.memWb.nxt = a.1 ∧ Agree v a.2) (memStep Cfg.reference s.forceX0) (memoryPart q u) := by
    rw [memStep_eq_memoryPart, show s.forceX0.exMem.cur = q from h.here]
    exact (h.agree.clear.memoryPart q).map_left fun a b ⟨hreg, hag⟩ => ⟨hreg, hag.of_sameArch (by constructor <;> rfl)⟩
  rw [tick_of_bubble h.writeback, afterWriteback_of_live (by exact hexit)]
  refine hmem.bind_left fun v a hv ha ⟨hreg, hag⟩ => ?_
  obtain ⟨r, u'⟩ := a
  have hcount := (wbStep_countFrame (c := Cfg.reference) (wbStep_of_bubble h.writeback)).trans (memStep_countFrame hv)
  obtain ⟨p, m, -, rfl, hnop, hsyscall, -⟩ := memStep_keeps hv
  have hr : p = r := hreg
  subst hr
  have hex := exStep_of_bubble (c := Cfg.reference) (s := (s.forceX0.putMemWb p).withMem m) h.execute
  obtain ⟨t, ht, hquiet, hd, he, hm, hw, hx⟩ := h.closeEmpty (hcount.trans (exStep_countFrame hex)) hexit
    (hag.of_sameArch (by constructor <;> rfl)) (b' := p.isSyscall) (by simp [hsyscall, h.syscallPending, h.here]) h.decode
    (by simp [hnop, h.here, h.real])
  rw [hex, ok_bind]
  exact ⟨t, ht, { hquiet with
    here := hw
    real := by rw [hnop, ← h.real, ← h.here]; rfl
    x0 := by simp [hx]
    decode := hd
    execute := he
    memory := by rw [hm]; rfl }⟩

theorem InWriteback.tick (h : InWriteback s u r) :
    Matches (fun t v => SameArch t v ∧ t.exit = true) (tick Cfg.reference s) (retirePart r u) := by
  have hreal : s.memWb.cur.isNop = false := by rw [h.here, h.real]
  have hwb := wbStep_matches h.agree h.x0 hreal
  rw [h.here] at hwb
  refine hwb.bind_left fun v a hv ha hag => ?_
  obtain ⟨hifId, hidEx, hexMem, -, -, -, -, -, -, -, -, -, hsyscall, -⟩ := wbStep_keeps hv
  have hcount := wbStep_countFrame hv
  have hpending : v.syscallPending = false := by
    rw [hsyscall, hreal, h.syscallPending, h.here]
    cases r.isSyscall <;> rfl
  have hb := h.budget_of_countFrame hcount
  obtain ⟨t, ht, hsame, hended⟩ := afterWriteback_of_empty (c := Cfg.reference) (s := v) (by rw [hifId]; exact h.decode)
    (by rw [hidEx]; exact h.execute) (by rw [hexMem]; exact h.memory) hb hpending
  exact ⟨t, ht, hsame.trans hag, hended⟩

end

/-! ## The stages in a row -/

section
variable {s u : State} {w : Word}

/-- From Decode on, four ticks are the passage of the fetched word. -/
theorem InDecode.endsAs (h : InDecode s u w) :
    EndsAs 4 s (do let p ← decodePart u w; passage p (u.setPc (u.pc + 4))) := by
  refine EndsAs.bind h.live h.tick fun t1 p h1 => ?_
  refine EndsAs.bind h1.live h1.tick fun t2 a h2 => ?_
  refine EndsAs.bind h2.live h2.tick fun t3 b h3 => ?_
  have hlast := EndsAs.bind (f := pure) (k := 0) h3.live h3.tick fun t v ht => ⟨t, rfl, ht⟩
  rwa [bind_pure] at hlast

end

/-- Settles O17: the instruction stands in Decode as `InDecode` says, the four ticks do its passage, and `exec` is its passage. -/
theorem fourTicksRunDecodedInstruction : Obligations.FourTicksRunDecodedInstruction := by
  intro s a w i hlive hw hifId hpc he hm hwb hsys hb
  have hin : InDecode s (s.setPc a) w :=
    { live := hlive
      budget := hb
      agree := by constructor <;> simp [hpc]
      syscallPending := hsys
      here := hifId
      execute := he
      memory := hm
      writeback := hwb }
  rw [exec_eq_passage hw]
  exact hin.endsAs.of_outcome

/-- What a tick with an empty pipe makes of the state when it fetches the word `w`. -/
def State.fetchTick (s : State) (w : Word) : State :=
  (((((s.openTick.putExMem bubble).setStall false).putIdEx bubble).putIfId (fetched s.pc w)).setPc
    (s.pc + 4)).countFetch.commit

/-- With an empty pipe and a budget of one more word, a tick is the fetch (40_clock_fetch.md R87, R89). -/
theorem fetch_tick {s : State} (hlive : s.mayTick = true) (hd : s.drained = true) (hsys : s.syscallPending = false)
    (hill : s.illegalPending = false) (hbd : s.bdPending = false) (hb : s.instrBudget = some (s.nFetched + 1)) :
    Matches (fun t w => InDecode t s.countFetch w) (tick Cfg.reference s) (fetchWord s.mem s.pc) := by
  obtain ⟨hbooted, hexit, hfault⟩ := State.mayTick_iff.mp hlive
  simp only [State.drained, Bool.and_eq_true] at hd
  obtain ⟨⟨⟨hifId, hidEx⟩, hexMem⟩, hmemWb⟩ := hd
  have hen : (((s.openTick.putExMem bubble).setStall false).putIdEx bubble).fetchEn = true := by
    simp [State.fetchEn, State.budgetReached, State.openTick, hsys, hill, hbd, hb]
  have htick : tick Cfg.reference s = (fetchWord s.mem s.pc).map s.fetchTick := by
    rw [tick_of_bubbles hlive hmemWb hexMem, exStep_of_bubble (by exact hidEx), ok_bind,
      idStep_of_bubble (by exact hifId), ok_bind, ifStep_of_fetchEn hen]
    show (fetchWord s.mem s.pc).map _ >>= _ = _
    cases fetchWord s.mem s.pc <;> rfl
  rw [htick]
  cases fetchWord s.mem s.pc with
  | error r => rfl
  | ok w =>
    have hgoes : (s.fetchTick w).exit = false := by
      rw [State.fetchTick, State.commit_exit _ (by exact hexit)]
      simp [State.drained, fetched]
    have hagree : Agree (s.fetchTick w) (s.countFetch.setPc (s.countFetch.pc + 4)) :=
      (Agree.forceX0_left _).of_sameArch (by constructor <;> simp [State.fetchTick, State.openTick])
    exact
      { live := State.mayTick_iff.mpr
          ⟨by simpa [State.fetchTick, State.openTick] using hbooted, hgoes,
            by simpa [State.fetchTick, State.openTick] using hfault⟩
        budget := by simp [State.budgetReached, State.fetchTick, State.openTick, hb]
        agree := hagree
        syscallPending := by simpa [State.fetchTick, State.openTick] using hsys
        here := by simp [State.fetchTick]
        execute := by simp [State.fetchTick, bubble]
        memory := by simp [State.fetchTick, bubble]
        writeback := by simpa [State.fetchTick, State.openTick] using hexMem }

/-- From an empty pipe, five ticks are the fetch and the passage of the word. -/
theorem fiveTicks_endsAs {s : State} (hlive : s.mayTick = true) (hd : s.drained = true) (hsys : s.syscallPending = false)
    (hill : s.illegalPending = false) (hbd : s.bdPending = false) (hb : s.instrBudget = some (s.nFetched + 1)) :
    EndsAs 5 s (do
      let w ← fetchWord s.mem s.pc
      let p ← decodePart s.countFetch w
      passage p (s.countFetch.setPc (s.pc + 4))) :=
  EndsAs.bind hlive (fetch_tick hlive hd hsys hill hbd hb) fun _ _ ht => ht.endsAs

theorem passage_illegalReg (p : PipeReg) {s : State} (h : s.x[0] = 0) : passage (illegalReg p) s = .ok s.haltIllegal := by
  have hretire : retirePart (illegalReg p) s = .ok s.forceX0.haltIllegal := rfl
  rw [State.forceX0_of_x0 h] at hretire
  exact hretire

/-- The sequential interpreter's step is the fetch and the passage of the word. -/
theorem seqStep_eq_passage {s : State} (hx0 : s.x[0] = 0) (hb : s.budgetReached = false) :
    seqStep s = toOutcome (do
      let w ← fetchWord s.mem s.pc
      let p ← decodePart s.countFetch w
      passage p (s.countFetch.setPc (s.pc + 4))) := by
  rw [seqStep, hb, if_neg Bool.false_ne_true]
  cases fetchWord s.mem s.pc with
  | error r => rfl
  | ok w =>
    rw [ok_bind]
    cases hw : decode w with
    | ok i =>
      simp only [hw]
      exact exec_eq_passage hw s.countFetch
    | error e =>
      cases e with
      | illegal =>
        have hdecode : decodePart s.countFetch w = .ok (illegalReg (fetched s.pc w)) := by
          simp [decodePart, Cfg.reference, refDecode, hw]
        rw [hdecode, ok_bind, passage_illegalReg _ (by exact hx0)]
        simp only [hw]
        rfl
      | unmodelled why => simp [decodePart, Cfg.reference, refDecode, hw, toOutcome, bind, Except.bind]

/-- Settles O18: the five ticks do the fetch and the passage, one stage each, and the interpreter's step is the same. -/
theorem fiveTicksDoOneSequentialStep : Obligations.FiveTicksDoOneSequentialStep := by
  intro s hlive hinv hd hsys hill hbd hb
  rw [seqStep_eq_passage hinv.x0 (by simp [State.budgetReached, hb])]
  exact (fiveTicks_endsAs hlive hd hsys hill hbd hb).of_outcome

/-! ## A word placed from outside (log entry 4) -/

theorem fetchWord_placed (s : State) (nbits w : Nat) :
    fetchWord (s.withFetchWord nbits w).mem (s.withFetchWord nbits w).pc = .ok (tableWord nbits w) := by
  have haligned : (s.withFetchWord nbits w).pc.toNat % 4 = 0 := by
    have hpc := s.pc.isLt
    simp only [State.withFetchWord, BitVec.toNat_ofNat]
    omega
  rw [fetchWord_of_aligned haligned]
  exact Memory.read4_of_word fun k hk => Memory.byte?_write4 s.mem _ _ hk

theorem placed_tick (s : State) (nbits w : Nat) :
    Matches (fun t v => InDecode t (s.withFetchWord nbits w).countFetch v) (tick Cfg.reference (s.withFetchWord nbits w))
      (.ok (tableWord nbits w)) := by
  rw [← fetchWord_placed s nbits w]
  exact fetch_tick rfl rfl rfl rfl rfl rfl

/-- Settles O21: the placed word is the one a fetch at the aligned program counter reads back, and the five ticks are its passage.
From reset the other fields are those of `State.reset` already. -/
theorem placedWordIsFetchedNext : Obligations.PlacedWordIsFetchedNext := by
  refine ⟨fun s nbits w => ?_, fun s nbits w i hinv hw => ?_, fun nbits w => rfl⟩
  · have htick := placed_tick s nbits w
    have hstep := step_of_mayTick (s := s.withFetchWord nbits w) rfl
    cases ht : tick Cfg.reference (s.withFetchWord nbits w) <;> rw [ht] at htick hstep
    · exact False.elim htick
    · exact ⟨_, hstep, htick.here, htick.agree.pc, htick.agree.nFetched⟩
  · intro p
    rw [decodeTableWord_eq] at hw
    have hdecode : decode (tableWord nbits w) = .ok i := by
      cases h : decode (tableWord nbits w) <;> rw [h] at hw <;> cases hw
      rfl
    rw [exec_eq_passage hdecode]
    have hends := fiveTicks_endsAs (s := p) rfl rfl rfl rfl rfl rfl
    rw [fetchWord_placed, ok_bind] at hends
    exact hends.of_outcome

end Sys2Proof.Machine
end

section
/-! SUPPORT. The proofs of the family 41_decode_hazard.md, first part: what a tick that does not end the run moves over the
four boundaries, and the drain discipline that follows (41_decode_hazard.md R113 to R118; 42_execute_delay_slot.md R131 to R134). -/

namespace Sys2Proof.Machine

/-! ## What a tick moves over the boundaries (40_clock_fetch.md R83, R85) -/

/-- `q` is the instruction of `p`, one stage on: the same flags and the same registers to write. Execute and Memory change values
only. -/
structure PipeReg.Carries (p q : PipeReg) : Prop where
  isNop : q.isNop = p.isNop
  isSyscall : q.isSyscall = p.isSyscall
  isIllegal : q.isIllegal = p.isIllegal
  dst : q.dst = p.dst
  writeReg : q.writeReg = p.writeReg
  writeFReg : q.writeFReg = p.writeFReg
  hiWrite : q.hiWrite = p.hiWrite
  loWrite : q.loWrite = p.loWrite
  memOp : q.memOp = p.memOp

theorem memPass_carries {memop : Mnemonic → MemIn → Memory → Except Fault MemOut} {p q : PipeReg} {m n : Memory}
    (h : memPass memop p m = .ok (q, n)) : p.Carries q := by
  rcases memPass_cases h with ⟨rfl, -, -⟩ | ⟨-, -, -, id, o, -, -, rfl, -⟩ <;> constructor <;> rfl

/-- What Execute hands on: a bubble for a bubble, else the instruction. -/
theorem exStep_carries {c : Cfg} {s t : State} (h : exStep c s = .ok t) :
    (s.idEx.cur.isNop = true → t.exMem.nxt = bubble) ∧ (s.idEx.cur.isNop = false → s.idEx.cur.Carries t.exMem.nxt) := by
  rcases exStep_cases h with ⟨hn, rfl⟩ | ⟨hn, -, rfl⟩ | ⟨hn, -, -, -, rfl⟩ | ⟨hn, -, -, p, u, hp, rfl⟩
  · exact ⟨fun _ => rfl, fun hreal => by simp [hn] at hreal⟩
  · exact ⟨fun hnop => by simp [hn] at hnop, fun _ => by constructor <;> rfl⟩
  · exact ⟨fun hnop => by simp [hn] at hnop, fun _ => by constructor <;> rfl⟩
  · obtain ⟨out, -, -, -, rfl, -⟩ := execPass_cases hp
    exact ⟨fun hnop => by simp [hn] at hnop, fun _ => by constructor <;> rfl⟩

/-- The pending system call, as Writeback leaves it: a call in Writeback is served (43_memory_writeback.md R148). -/
def State.syscallLeft (s : State) : Bool := if s.memWb.cur.real && s.memWb.cur.isSyscall then false else s.syscallPending

/-- What the stages ahead of Decode do in a tick from `s` that Writeback does not end: `q` is what Memory hands on, `p` what Execute
hands on, and `bd` tells whether a delay slot is pending afterwards. -/
structure AheadFlow (s : State) (q p : PipeReg) (bd : Bool) : Prop where
  /-- No illegal opcode was in Writeback (43_memory_writeback.md R149). -/
  writeback : s.memWb.cur.isNop = false → s.memWb.cur.isSyscall = false → s.memWb.cur.isIllegal = false
  memory : s.exMem.cur.Carries q
  executeNone : s.idEx.cur.isNop = true → p = bubble
  execute : s.idEx.cur.isNop = false → s.idEx.cur.Carries p
  /-- The controller stays pending only past a bubble or an illegal opcode (42_execute_delay_slot.md R131). -/
  bdStays : s.bdPending = true → bd = true → s.idEx.cur.isNop = true ∨ s.idEx.cur.isIllegal = true
  /-- Only an instruction that runs in Execute sets the controller (42_execute_delay_slot.md R132). -/
  bdSet : s.bdPending = false → bd = true →
    s.idEx.cur.isNop = false ∧ s.idEx.cur.isIllegal = false ∧ s.idEx.cur.isSyscall = false

/-- The state `v` that Decode finds in a tick from `s`. -/
structure BackFlow (s v : State) : Prop extends AheadFlow s v.memWb.nxt v.exMem.nxt v.bdPending where
  ifId : v.ifId = s.ifId
  idEx : v.idEx = s.idEx
  exMem : v.exMem.cur = s.exMem.cur
  fwdMode : v.fwdMode = s.fwdMode
  nFetched : v.nFetched = s.nFetched
  instrBudget : v.instrBudget = s.instrBudget
  syscallPending : v.syscallPending = s.syscallLeft
  illegalPending : v.illegalPending = s.illegalPending
  /-- A redirect alone moves the program counter (42_execute_delay_slot.md R133), or the return from a system call
  (43_memory_writeback.md R148). -/
  pc : (s.memWb.cur.real && s.memWb.cur.isSyscall) = false →
    v.pc = if s.bdPending && s.bdTaken && !v.bdPending then s.bdTarget else s.pc

theorem backFlow_of_steps {c : Cfg} {s s1 s2 v : State} (h1 : wbStep c s = .ok s1) (hlive : s1.exit = false)
    (h2 : memStep c s1 = .ok s2) (h3 : exStep c s2 = .ok v) : BackFlow s v := by
  have hwriteback : s.memWb.cur.isNop = false → s.memWb.cur.isSyscall = false → s.memWb.cur.isIllegal = false := by
    intro hn hs
    rcases wbStep_cases h1 with ⟨hn', -⟩ | ⟨-, hs', -⟩ | ⟨-, -, -, rfl⟩ | ⟨-, -, hi, -⟩
    · rw [hn] at hn'; cases hn'
    · rw [hs] at hs'; cases hs'
    · cases hlive
    · exact hi
  obtain ⟨wD, wE, wM, -, -, wIll, wBd, wTk, wTg, wN, wBu, wMode, wSys, wPc⟩ := wbStep_keeps h1
  obtain ⟨p, m, hp, rfl, -⟩ := memStep_keeps h2
  obtain ⟨xD, xE, xM, xW, -, xSys, xIll, xN, xBu, xMode, -, -, -, -, -, -, -, -, -, -, -, -, -, -, xStays, xSet, xPc⟩ :=
    exStep_keeps h3
  obtain ⟨hnone, hexecute⟩ := exStep_carries h3
  have hmemory := memPass_carries hp
  simp only [State.withMem_idEx, State.putMemWb_idEx, State.withMem_bdPending, State.putMemWb_bdPending, wE, wBd, wM]
    at xStays xSet hnone hexecute hmemory
  exact
    { ifId := xD.trans wD
      idEx := xE.trans wE
      exMem := xM.trans (congrArg PipePair.cur wM)
      fwdMode := xMode.trans wMode
      nFetched := xN.trans wN
      instrBudget := xBu.trans wBu
      syscallPending := xSys.trans wSys
      illegalPending := xIll.trans wIll
      writeback := hwriteback
      memory := by rw [xW]; exact hmemory
      executeNone := hnone
      execute := hexecute
      bdStays := xStays
      bdSet := xSet
      pc := fun hw => by simpa [wBd, wTk, wTg, wPc hw] using xPc }

/-- What Decode does in a tick from `s` to `t` (41_decode_hazard.md R120). -/
inductive DecodeTurn (c : Cfg) (s t : State) : Prop
  | empty (none : s.ifId.cur.isNop = true) (out : t.idEx.cur = bubble) (stall : t.stall = false)
      (syscall : t.syscallPending = s.syscallLeft) (illegal : t.illegalPending = s.illegalPending)
  | illegal (real : s.ifId.cur.isNop = false) (word : c.decode s.ifId.cur.ins = .illegal)
      (out : t.idEx.cur = illegalReg s.ifId.cur) (stall : t.stall = false) (syscall : t.syscallPending = s.syscallLeft)
      (illegal : t.illegalPending = true)
  | stalled (d : DecodeInfo) (real : s.ifId.cur.isNop = false) (word : c.decode s.ifId.cur.ins = .legal d)
      (decision : stallDecision s.fwdMode d s.idEx.cur s.exMem.cur = true) (out : t.idEx.cur = bubble) (stall : t.stall = true)
      (syscall : t.syscallPending = s.syscallLeft) (illegal : t.illegalPending = s.illegalPending)
  | issued (d : DecodeInfo) (v1 v2 : DWord) (t1 t2 : FwdTag) (real : s.ifId.cur.isNop = false)
      (word : c.decode s.ifId.cur.ins = .legal d) (decision : stallDecision s.fwdMode d s.idEx.cur s.exMem.cur = false)
      (out : t.idEx.cur = decoded s.ifId.cur d v1 v2 t1 t2) (stall : t.stall = false)
      (syscall : t.syscallPending = (d.isSyscall || s.syscallLeft)) (illegal : t.illegalPending = s.illegalPending)

/-- What Fetch does in a tick from `s` to `t` (40_clock_fetch.md R87, R89). Without a fetch, only a redirect or the return from a system
call moves the program counter. -/
inductive FetchTurn (s t : State) : Prop
  | brought (a w : Word)
      (enabled : (!t.stall && !t.syscallPending && !t.illegalPending && !t.bdPending && !s.budgetReached) = true)
      (out : t.ifId.cur = fetched a w)
  | idle (disabled : (!t.stall && !t.syscallPending && !t.illegalPending && !t.bdPending && !s.budgetReached) = false)
      (out : t.ifId.cur = if t.stall then s.ifId.cur else bubble) (nFetched : t.nFetched = s.nFetched)
      (pc : (s.memWb.cur.real && s.memWb.cur.isSyscall) = false →
        t.pc = if s.bdPending && s.bdTaken && !t.bdPending then s.bdTarget else s.pc)

/-- What every stage of a tick from `s` to `t` does, when the tick does not end the run. -/
structure TickFlow (c : Cfg) (s t : State) : Prop extends AheadFlow s t.memWb.cur t.exMem.cur t.bdPending where
  decode : DecodeTurn c s t
  fetch : FetchTurn s t
  fwdMode : t.fwdMode = s.fwdMode
  budget : s.budgetReached = true → t.budgetReached = true

theorem tick_flow {c : Cfg} {s t : State} (h : tick c s = .ok t) (he : t.exit = false) : TickFlow c s t := by
  obtain ⟨s1, h1, ⟨hexit, rfl⟩ | ⟨hlive, s2, v, s4, s5, h2, h3, h4, h5, rfl⟩⟩ := tick_cases h
  · rw [State.countCycle_exit, hexit] at he
    cases he
  have hback := backFlow_of_steps h1 hlive h2 h3
  obtain ⟨fM, fW, -, -, fBd, -, -, fBu, -, -, -, -, -, fMode, -, fStall, fSys, fIll, fIdEx, fDecode, fFetch⟩ :=
    front_cases h4 h5
  have hbudget : v.budgetReached = s.budgetReached := State.budgetReached_congr hback.instrBudget hback.nFetched
  rw [hback.ifId, hback.idEx, hback.exMem, hback.fwdMode, hback.syscallPending, hback.illegalPending, ← fIdEx, ← fSys, ← fIll,
    ← fStall] at fDecode
  rw [hback.ifId, hback.nFetched, ← fBd, hbudget, ← fSys, ← fIll, ← fStall] at fFetch
  have hahead : AheadFlow s s5.memWb.nxt s5.exMem.nxt s5.bdPending := by
    rw [fW, fM, fBd]
    exact hback.toAheadFlow
  rw [(commit_ok he).1]
  refine { hahead with decode := ?_, fetch := ?_, fwdMode := fMode.trans hback.fwdMode, budget := fun hb => ?_ }
  · rcases fDecode with ⟨hn, ho, hst, hsy, hil⟩ | ⟨hn, hw, ho, hst, hsy, hil⟩ |
      ⟨hn, d, hw, -, hil, ⟨hdec, ho, hst, hsy⟩ | ⟨hdec, hst, ho, hsy⟩⟩
    · exact .empty hn ho hst hsy hil
    · exact .illegal hn hw ho hst hsy hil
    · exact .stalled d hn hw hdec ho hst hsy hil
    · exact .issued d _ _ _ _ hn hw hdec ho hst hsy hil
  · rcases fFetch with ⟨hen, ⟨w, -, hw⟩, -⟩ | ⟨hno, hpc, hn, hw⟩
    · exact .brought _ w hen hw
    · exact .idle hno hw hn fun hs => (hpc.trans (hback.pc hs)).trans (by rw [← fBd]; rfl)
  · refine budgetReached_mono (fBu.trans hback.instrBudget).symm ?_ hb
    rcases fFetch with ⟨-, -, -, hn⟩ | ⟨-, -, hn, -⟩
    · exact (Nat.le_succ _).trans hn.ge
    · exact hn.ge

/-! ## The drain discipline and the delay slot (41_decode_hazard.md R117, R118; 42_execute_delay_slot.md R134) -/

/-- The instruction drains the pipe: nothing is fetched behind it. -/
def PipeReg.drains (p : PipeReg) : Bool := p.isSyscall || p.isIllegal

theorem PipeReg.drains_eq_false {p : PipeReg} : p.drains = false ↔ p.isSyscall = false ∧ p.isIllegal = false := by
  simp [PipeReg.drains]

@[simp] theorem drains_bubble : bubble.drains = false := rfl

theorem PipeReg.Carries.drains {p q : PipeReg} (h : p.Carries q) : q.drains = p.drains := by
  rw [PipeReg.drains, h.isSyscall, h.isIllegal, PipeReg.drains]

section
variable {s t : State} {c : Cfg} {q p : PipeReg} {bd : Bool}

theorem DrainInv.idEx_clear (h : DrainInv s) (hn : s.idEx.cur.isNop = true) : s.idEx.cur.drains = false :=
  PipeReg.drains_eq_false.mpr (h.bubbleFlags _ (by simp) hn)

theorem DrainInv.exMem_clear (h : DrainInv s) (hn : s.exMem.cur.isNop = true) : s.exMem.cur.drains = false :=
  PipeReg.drains_eq_false.mpr (h.bubbleFlags _ (by simp) hn)

theorem DrainInv.memWb_clear (h : DrainInv s) (hn : s.memWb.cur.isNop = true) : s.memWb.cur.drains = false :=
  PipeReg.drains_eq_false.mpr (h.bubbleFlags _ (by simp) hn)

/-- Ahead of a real instruction in Decode nothing drains. -/
theorem DrainInv.ahead_clear (h : DrainInv s) (hreal : s.ifId.cur.isNop = false) :
    s.idEx.cur.drains = false ∧ s.exMem.cur.drains = false ∧ s.memWb.cur.drains = false := by
  refine ⟨Bool.eq_false_iff.mpr fun hd => ?_, Bool.eq_false_iff.mpr fun hd => ?_, Bool.eq_false_iff.mpr fun hd => ?_⟩
  · have hn := h.behindIdEx hd
    simp [hreal] at hn
  · obtain ⟨-, hn⟩ := h.behindExMem hd
    simp [hreal] at hn
  · obtain ⟨-, -, hn⟩ := h.behindMemWb hd
    simp [hreal] at hn

/-- After Writeback, the pending system call is in Execute or Memory. -/
theorem DrainInv.syscallLeft (h : DrainInv s) : s.syscallLeft = (s.idEx.cur.isSyscall || s.exMem.cur.isSyscall) := by
  cases hw : s.memWb.cur.isSyscall with
  | false => simp [State.syscallLeft, hw, h.syscallPending]
  | true =>
    have hdrains : s.memWb.cur.drains = true := by simp [PipeReg.drains, hw]
    obtain ⟨hm, he, -⟩ := h.behindMemWb hdrains
    obtain ⟨hE, -⟩ := PipeReg.drains_eq_false.mp (h.idEx_clear he)
    obtain ⟨hM, -⟩ := PipeReg.drains_eq_false.mp (h.exMem_clear hm)
    simp [State.syscallLeft, PipeReg.real, hw, h.realMemWb hdrains, hE, hM]

/-- In a tick that goes on past Writeback, the pending illegal opcode is in Execute or Memory. -/
theorem DrainInv.illegalLeft (h : DrainInv s) (hf : AheadFlow s q p bd) :
    s.illegalPending = (s.idEx.cur.isIllegal || s.exMem.cur.isIllegal) := by
  have hw : s.memWb.cur.isIllegal = false := by
    cases hn : s.memWb.cur.isNop with
    | true => exact (PipeReg.drains_eq_false.mp (h.memWb_clear hn)).2
    | false =>
      cases hs : s.memWb.cur.isSyscall with
      | true => simpa [hs] using h.oneFlag s.memWb.cur (by simp)
      | false => exact hf.writeback hn hs
  rw [h.illegalPending, hw, Bool.or_false]

/-- What Execute hands on has the flags of what it was given. -/
theorem AheadFlow.execute_flags (hf : AheadFlow s q p bd) (h : DrainInv s) :
    p.isNop = s.idEx.cur.isNop ∧ p.isSyscall = s.idEx.cur.isSyscall ∧ p.isIllegal = s.idEx.cur.isIllegal := by
  cases hn : s.idEx.cur.isNop with
  | true =>
    obtain ⟨hs, hi⟩ := PipeReg.drains_eq_false.mp (h.idEx_clear hn)
    rw [hf.executeNone hn, hs, hi]
    exact ⟨rfl, rfl, rfl⟩
  | false =>
    have hp := hf.execute hn
    exact ⟨hp.isNop.trans hn, hp.isSyscall, hp.isIllegal⟩

/-- The pending flags after Decode: what it hands on raises them (41_decode_hazard.md R117, R118). -/
theorem DecodeTurn.pending (h : DecodeTurn c s t) :
    t.syscallPending = (t.idEx.cur.isSyscall || s.syscallLeft) ∧
    t.illegalPending = (t.idEx.cur.isIllegal || s.illegalPending) := by
  cases h with
  | empty _ out _ syscall illegal => simp [out, syscall, illegal, bubble]
  | illegal _ _ out _ syscall illegal => simp [out, syscall, illegal, illegalReg, bubble]
  | stalled _ _ _ _ out _ syscall illegal => simp [out, syscall, illegal, bubble]
  | issued d _ _ _ _ _ _ _ out _ syscall illegal => simp [out, syscall, illegal, decoded]

/-- Decode hands on a bubble, with or without a stall, or a real instruction without one; never both flags. -/
theorem DecodeTurn.handed (h : DecodeTurn c s t) :
    (t.idEx.cur = bubble ∧ (t.stall = true → s.ifId.cur.isNop = false)) ∨
    (t.idEx.cur.isNop = false ∧ t.stall = false ∧ s.ifId.cur.isNop = false ∧
      (t.idEx.cur.isSyscall && t.idEx.cur.isIllegal) = false) := by
  cases h with
  | empty _ out stall => exact .inl ⟨out, by simp [stall]⟩
  | illegal real _ out stall => exact .inr (by simp [out, stall, real, illegalReg, bubble])
  | stalled _ real _ _ out => exact .inl ⟨out, fun _ => real⟩
  | issued d _ _ _ _ real _ _ out stall => exact .inr (by simp [out, stall, real, decoded])

/-- Behind a pending flag or a pending delay slot Fetch clears Decode, unless the instruction there is stalled. -/
theorem FetchTurn.cleared (h : FetchTurn s t) (hstall : t.stall = false)
    (hp : (t.syscallPending || t.illegalPending || t.bdPending) = true) : t.ifId.cur = bubble := by
  cases h with
  | brought a w enabled => simp_all
  | idle _ out => rw [out, hstall]; rfl

end

section
variable {s t : State} {c : Cfg}

/-- A flag is pending after the tick if Decode, Execute or Memory handed on an instruction that drains. -/
theorem TickFlow.pending (hf : TickFlow c s t) (h : DrainInv s) :
    (t.syscallPending || t.illegalPending) = (t.idEx.cur.drains || s.idEx.cur.drains || s.exMem.cur.drains) := by
  obtain ⟨hsys, hill⟩ := hf.decode.pending
  rw [hsys, hill, h.syscallLeft, h.illegalLeft hf.toAheadFlow]
  simp only [PipeReg.drains]
  ac_rfl

/-- A tick leaves nothing behind an instruction that drains (41_decode_hazard.md R117, R118). -/
theorem TickFlow.behind (hf : TickFlow c s t) (h : DrainInv s) :
    (t.idEx.cur.drains = true → t.ifId.cur = bubble) ∧
    (t.exMem.cur.drains = true → t.idEx.cur = bubble ∧ t.ifId.cur = bubble) ∧
    (t.memWb.cur.drains = true → t.exMem.cur.isNop = true ∧ t.idEx.cur = bubble ∧ t.ifId.cur = bubble) := by
  obtain ⟨hMn, hMs, hMi⟩ := hf.execute_flags h
  have hpending := hf.pending h
  have hempty : s.ifId.cur.isNop = true → (t.syscallPending || t.illegalPending) = true →
      t.idEx.cur = bubble ∧ t.ifId.cur = bubble := by
    intro hD hp
    rcases hf.decode.handed with ⟨hE, hstall⟩ | ⟨-, -, hreal, -⟩
    · exact ⟨hE, hf.fetch.cleared (by simpa [hD] using hstall) (by simp [hp])⟩
    · simp [hD] at hreal
  refine ⟨fun hE => ?_, fun hM => ?_, fun hW => ?_⟩
  · rcases hf.decode.handed with ⟨hb, -⟩ | ⟨-, hstall, -⟩
    · simp [hb] at hE
    · exact hf.fetch.cleared hstall (by simp [hpending, hE])
  · have hE : s.idEx.cur.drains = true := by rw [← hM, PipeReg.drains, PipeReg.drains, hMs, hMi]
    exact hempty (h.behindIdEx hE) (by simp [hpending, hE])
  · have hM : s.exMem.cur.drains = true := by rw [← hW, hf.memory.drains]
    obtain ⟨hE, hD⟩ := h.behindExMem hM
    exact ⟨hMn.trans hE, hempty hD (by simp [hpending, hM])⟩

/-- When a delay slot is pending after the tick, it is an illegal word, in Decode, or missing by the budget. -/
theorem TickFlow.slot_decoding (hf : TickFlow c s t) (h : DrainInv s) (hbd : t.bdPending = true) :
    t.illegalPending = true ∨ s.ifId.cur.isNop = false ∨ s.budgetReached = true := by
  have hill := hf.decode.pending.2
  cases hb : s.bdPending with
  | true =>
    rcases hf.bdStays hb hbd with hE | hE
    · rcases h.delaySlot hb with hi | ⟨hE', -⟩ | ⟨-, hD⟩ | ⟨-, -, hbudget⟩
      · exact .inl (by simp [hill, hi])
      · simp [hE] at hE'
      · exact .inr (.inl hD)
      · exact .inr (.inr hbudget)
    · exact .inl (by simp [hill, h.illegalPending, hE])
  | false =>
    obtain ⟨hn, hi, hs⟩ := hf.bdSet hb hbd
    exact .inr (h.nextFetched hn hs hi hb)

/-- The delay slot moves from Decode to Execute, and waits in Decode through a stall. -/
theorem TickFlow.delaySlot (hf : TickFlow c s t) (h : DrainInv s) (hbd : t.bdPending = true) :
    t.illegalPending = true ∨ (t.idEx.cur.isNop = false ∧ t.ifId.cur.isNop = true) ∨
    (t.idEx.cur.isNop = true ∧ t.ifId.cur.isNop = false) ∨
    (t.idEx.cur.isNop = true ∧ t.ifId.cur.isNop = true ∧ t.budgetReached = true) := by
  have hcleared : t.stall = false → t.ifId.cur.isNop = true := fun hs => by
    rw [hf.fetch.cleared hs (by simp [hbd])]; rfl
  cases hf.decode with
  | empty none out stall =>
    rcases hf.slot_decoding h hbd with hi | hD | hbudget
    · exact .inl hi
    · simp [none] at hD
    · exact .inr (.inr (.inr ⟨by rw [out]; rfl, hcleared stall, hf.budget hbudget⟩))
  | illegal _ _ _ _ _ illegal => exact .inl illegal
  | stalled d real _ _ out stall =>
    have hheld : t.ifId.cur = s.ifId.cur := by
      cases hf.fetch with
      | brought a w enabled => simp [stall] at enabled
      | idle _ held => rw [held, stall]; rfl
    exact .inr (.inr (.inl ⟨by rw [out]; rfl, by rw [hheld, real]⟩))
  | issued d v1 v2 t1 t2 real _ _ out stall => exact .inr (.inl ⟨by rw [out]; rfl, hcleared stall⟩)

/-- Behind an instruction that runs in Execute next, the following word is fetched in the same tick. -/
theorem TickFlow.nextFetched (hf : TickFlow c s t) (h : DrainInv s) (hn : t.idEx.cur.isNop = false)
    (hs : t.idEx.cur.isSyscall = false) (hi : t.idEx.cur.isIllegal = false) (hbd : t.bdPending = false) :
    t.ifId.cur.isNop = false ∨ t.budgetReached = true := by
  cases hf.fetch with
  | brought a w _ out => exact .inl (by rw [out]; rfl)
  | idle disabled =>
    right
    rcases hf.decode.handed with ⟨hb, -⟩ | ⟨-, hstall, hreal, -⟩
    · simp [hb, bubble] at hn
    · obtain ⟨hE, hM, -⟩ := h.ahead_clear hreal
      have hpending := hf.pending h
      rw [PipeReg.drains_eq_false.mpr ⟨hs, hi⟩, hE, hM] at hpending
      obtain ⟨hsys, hill⟩ := Bool.or_eq_false_iff.mp hpending
      exact hf.budget (by simpa [hstall, hsys, hill, hbd] using disabled)

/-- A fetched word carries no flag, and neither does one that is held. -/
theorem TickFlow.fetchedFlags (hf : TickFlow c s t) (h : DrainInv s) : t.ifId.cur.drains = false := by
  cases hf.fetch with
  | brought a w _ out => rw [out]; rfl
  | idle _ out =>
    rw [out]
    split
    · exact PipeReg.drains_eq_false.mpr h.fetchedFlags
    · rfl

theorem TickFlow.drainInv (hf : TickFlow c s t) (h : DrainInv s) : DrainInv t := by
  obtain ⟨hMn, hMs, hMi⟩ := hf.execute_flags h
  obtain ⟨hWn, hWs, hWi⟩ : _ ∧ _ ∧ _ := ⟨hf.memory.isNop, hf.memory.isSyscall, hf.memory.isIllegal⟩
  obtain ⟨hsys, hill⟩ := hf.decode.pending
  obtain ⟨hbE, hbM, hbW⟩ := hf.behind h
  constructor
  case syscallPending => rw [hsys, h.syscallLeft, hMs, hWs, Bool.or_assoc]
  case illegalPending => rw [hill, h.illegalLeft hf.toAheadFlow, hMi, hWi, Bool.or_assoc]
  case realIdEx =>
    intro hd
    rcases hf.decode.handed with ⟨hb, -⟩ | ⟨hn, -⟩
    · simp [hb, bubble] at hd
    · exact hn
  case realExMem => rw [hMs, hMi, hMn]; exact h.realIdEx
  case realMemWb => rw [hWs, hWi, hWn]; exact h.realExMem
  case behindIdEx => exact fun hd => by rw [hbE hd]; rfl
  case behindExMem => exact fun hd => by rw [(hbM hd).1, (hbM hd).2]; exact ⟨rfl, rfl⟩
  case behindMemWb => exact fun hd => by rw [(hbW hd).1, (hbW hd).2.1, (hbW hd).2.2]; exact ⟨rfl, rfl, rfl⟩
  case bubbleFlags =>
    simp only [List.forall_mem_cons, List.not_mem_nil, false_implies, implies_true, and_true]
    refine ⟨fun _ => PipeReg.drains_eq_false.mp (hf.fetchedFlags h), fun hn => ?_, fun hn => ?_, fun hn => ?_⟩
    · rcases hf.decode.handed with ⟨hb, -⟩ | ⟨hreal, -⟩
      · rw [hb]; exact ⟨rfl, rfl⟩
      · simp [hn] at hreal
    · rw [hMs, hMi]; exact PipeReg.drains_eq_false.mp (h.idEx_clear (hMn.symm.trans hn))
    · rw [hWs, hWi]; exact PipeReg.drains_eq_false.mp (h.exMem_clear (hWn.symm.trans hn))
  case oneFlag =>
    simp only [List.forall_mem_cons, List.not_mem_nil, false_implies, implies_true, and_true]
    refine ⟨?_, ?_, ?_⟩
    · rcases hf.decode.handed with ⟨hb, -⟩ | ⟨-, -, -, hone⟩
      · rw [hb]; rfl
      · exact hone
    · rw [hMs, hMi]; exact h.oneFlag _ (by simp)
    · rw [hWs, hWi]; exact h.oneFlag _ (by simp)
  case fetchedFlags => exact PipeReg.drains_eq_false.mp (hf.fetchedFlags h)
  case delaySlot => exact hf.delaySlot h
  case nextFetched => exact hf.nextFetched h

end

/-- Settles O10: a tick that does not end the run moves the pipe as `TickFlow` says, and that keeps each part of the invariant. -/
theorem stepKeepsDrainInvariant : Obligations.StepKeepsDrainInvariant := by
  intro s t hinv h he
  obtain ⟨-, -, -, htick⟩ := step_next.mp h
  exact (tick_flow htick he).drainInv hinv

end Sys2Proof.Machine
end

section
/-! SUPPORT. The proofs of the family 41_decode_hazard.md, second part: the source selection, how long a consumer waits, and the way
of an illegal word through the pipe (41_decode_hazard.md R101 to R107, R110 to R119, R122; 43_memory_writeback.md R149). -/

namespace Sys2Proof.Machine

/-! ## The selection for one source (41_decode_hazard.md R101, R104 to R106, R109) -/

section
variable {mode : ForwardMode} {e m : PipeReg} {i : RegIdx}

/-- A general source without forwarding (41_decode_hazard.md R104). -/
theorem selectSrc_gpr_stall (hi : i ≠ 0) : selectSrc .none e m (.gpr i) = (e.writesGpr i || m.writesGpr i, .none) := if_neg hi

/-- A general source in a mode with a bypass: Execute's writer comes before Memory's (41_decode_hazard.md R105). -/
theorem selectSrc_gpr_bypass (hi : i ≠ 0) (hmode : mode ≠ .none) : selectSrc mode e m (.gpr i) =
    if e.writesGpr i then (if e.isLoad then (true, .none) else (false, .fromEX))
    else if m.writesGpr i then (if mode = .exmem then (false, .fromMEM) else (true, .none))
    else (false, .none) := by
  cases mode with
  | none => exact absurd rfl hmode
  | ex => exact if_neg hi
  | exmem => exact if_neg hi

/-- Settles O22: `gpr 0` and the sentinel take no part; the other sources by the rules of their kind. -/
theorem sourceSelection : Obligations.SourceSelection :=
  fun _ _ _ => ⟨rfl, rfl, fun _ => rfl, fun _ => selectSrc_gpr_stall, fun _ => selectSrc_gpr_bypass⟩

/-- A pending HI or LO write is one of a real instruction (10_state.md R35). -/
theorem PipeReg.writesHiLo_iff {p : PipeReg} :
    p.writesHiLo = true ↔ p.isNop = false ∧ (p.hiWrite = true ∨ p.loWrite = true) := by
  simp [PipeReg.writesHiLo, PipeReg.real]

/-- The HI and LO hazard (41_decode_hazard.md R107). -/
theorem hiloStall_iff {d : DecodeInfo} : hiloStall d e m = true ↔
    (d.hiWrite = true ∨ d.loWrite = true ∨ d.readsHi = true ∨ d.readsLo = true) ∧
      (e.writesHiLo = true ∨ m.writesHiLo = true) := by
  simp [hiloStall, or_assoc]

/-- Settles O23: the decision is the disjunction of the two sources and the HI and LO hazard. -/
theorem hiLoHazardStalls : Obligations.HiLoHazardStalls := by
  intro mode d e m
  rw [← PipeReg.writesHiLo_iff, ← PipeReg.writesHiLo_iff, ← hiloStall_iff]
  simp [stallDecision, or_assoc]

end

/-- Settles O26: each of the four outcomes of Decode sets these fields alone, and the two pending flags only to true. -/
theorem decodeWritesNoArchitecturalState : Obligations.DecodeWritesNoArchitecturalState := by
  intro c s t h
  rcases idStep_cases h with ⟨-, rfl⟩ | ⟨-, -, rfl⟩ | ⟨-, d, -, -, ⟨-, rfl⟩ | ⟨-, rfl⟩⟩
  · exact ⟨rfl, id, id⟩
  · exact ⟨rfl, id, fun _ => rfl⟩
  · exact ⟨rfl, id, id⟩
  · exact ⟨rfl, fun hs => by simp [hs], id⟩

/-! ## Runs, one tick at the end -/

theorem run_succ_of_refused {k : Nat} {s : State} {r : Refusal} (h : step s = .refused r) : run (k + 1) s = .refused r := by
  have hs : core.step s = .refused r := h
  simp only [run, Host.Core.run, hs]
  rfl

/-- `k + 1` ticks are `k` ticks and one more. -/
theorem run_succ_eq_step {k : Nat} {s t : State} (h : run k s = .next t) : run (k + 1) s = step t := by
  induction k generalizing s with
  | zero =>
    obtain rfl : t = s := by cases h; rfl
    cases hs : step t with
    | next u => exact run_succ_of_next hs
    | fault r => exact run_succ_of_fault hs
    | refused r => exact run_succ_of_refused hs
  | succ k ih =>
    cases hs : step s with
    | next u =>
      rw [run_succ_of_next hs] at h ⊢
      exact ih h
    | fault r => rw [run_succ_of_fault hs] at h; cases h
    | refused r => rw [run_succ_of_refused hs] at h; cases h

/-! ## A consumer held and let go (41_decode_hazard.md R113 to R115, R119) -/

/-- In a tick from `s` to `t` the instruction in Decode was held, and Execute was sent a bubble. -/
structure Held (s t : State) : Prop where
  stall : t.stall = true
  ifId : t.ifId.cur = s.ifId.cur
  idEx : t.idEx.cur = bubble

/-- In a tick from `s` to `t` the instruction in Decode went on to Execute. -/
structure Issued (s t : State) : Prop where
  stall : t.stall = false
  pc : t.idEx.cur.pc = s.ifId.cur.pc
  ins : t.idEx.cur.ins = s.ifId.cur.ins

section
variable {c : Cfg} {s t : State}

/-- A stall is of a real instruction, which is held; Fetch is idle. -/
theorem TickFlow.of_stall (hf : TickFlow c s t) (hstall : t.stall = true) :
    Held s t ∧ s.ifId.cur.isNop = false ∧ t.nFetched = s.nFetched ∧
    ((s.memWb.cur.real && s.memWb.cur.isSyscall) = false →
      t.pc = if s.bdPending && s.bdTaken && !t.bdPending then s.bdTarget else s.pc) := by
  obtain ⟨hreal, hout⟩ : s.ifId.cur.isNop = false ∧ t.idEx.cur = bubble := by
    rcases hf.decode.handed with ⟨hb, hreal⟩ | ⟨-, hgo, -⟩
    · exact ⟨hreal hstall, hb⟩
    · simp [hstall] at hgo
  cases hf.fetch with
  | brought a w enabled => simp [hstall] at enabled
  | idle _ held count pc => exact ⟨⟨hstall, by rw [held, if_pos hstall], hout⟩, hreal, count, pc⟩

/-- Settles O24: by the invariant no system call is in Writeback behind a real instruction in Decode, so a redirect alone moves the
program counter. -/
theorem stallHoldsInstruction : Obligations.StallHoldsInstruction := by
  intro s t hinv h he hstall
  obtain ⟨-, -, -, htick⟩ := step_next.mp h
  obtain ⟨hheld, hreal, hcount, hpc⟩ := (tick_flow htick he).of_stall hstall
  obtain ⟨-, -, hW⟩ := hinv.ahead_clear hreal
  have hcall : (s.memWb.cur.real && s.memWb.cur.isSyscall) = false := by simp [(PipeReg.drains_eq_false.mp hW).1]
  exact ⟨hheld.ifId, hheld.idEx, hcount, hpc hcall⟩

/-- A legal word in Decode is held or goes on, as the stall decision says. -/
theorem TickFlow.decided {d : DecodeInfo} {P : Prop} (hf : TickFlow c s t) (hreal : s.ifId.cur.isNop = false)
    (hw : c.decode s.ifId.cur.ins = .legal d) (hP : stallDecision s.fwdMode d s.idEx.cur s.exMem.cur = true ↔ P) :
    (P → Held s t) ∧ (¬ P → Issued s t) := by
  cases hf.decode with
  | empty none => simp [hreal] at none
  | illegal _ word => simp [hw] at word
  | stalled d' _ word decision out stall =>
    cases hw.symm.trans word
    exact ⟨fun _ => (hf.of_stall stall).1, fun hn => absurd (hP.mp decision) hn⟩
  | issued d' v1 v2 t1 t2 _ word decision out stall =>
    cases hw.symm.trans word
    exact ⟨fun h => absurd (hP.mpr h) (by simp [decision]), fun _ => ⟨stall, by rw [out]; rfl, by rw [out]; rfl⟩⟩

end

section
variable {p q : PipeReg} (h : p.Carries q)
include h

theorem PipeReg.Carries.writesGpr (i : RegIdx) : q.writesGpr i = p.writesGpr i := by
  simp only [PipeReg.writesGpr, PipeReg.real, h.isNop, h.writeReg, h.dst]

theorem PipeReg.Carries.writesHiLo : q.writesHiLo = p.writesHiLo := by
  simp only [PipeReg.writesHiLo, PipeReg.real, h.isNop, h.hiWrite, h.loWrite]

end

theorem PipeReg.writesGpr_of_nop {p : PipeReg} (h : p.isNop = true) (i : RegIdx) : p.writesGpr i = false := by
  simp [PipeReg.writesGpr, PipeReg.real, h]

theorem PipeReg.writesHiLo_of_nop {p : PipeReg} (h : p.isNop = true) : p.writesHiLo = false := by
  simp [PipeReg.writesHiLo, PipeReg.real, h]

/-- The producer of a general register is real, so Execute hands it on. -/
theorem AheadFlow.carries_of_writesGpr {s : State} {q p : PipeReg} {bd : Bool} {r : RegIdx} (hf : AheadFlow s q p bd)
    (h : s.idEx.cur.writesGpr r = true) : s.idEx.cur.Carries p := by
  cases hn : s.idEx.cur.isNop with
  | true => simp [PipeReg.writesGpr_of_nop hn] at h
  | false => exact hf.execute hn

/-- `r` is the only general register that the instruction reads, and it reads nothing else. -/
def DecodeInfo.ReadsOnly (d : DecodeInfo) (r : RegIdx) : Prop :=
  d.src1 = .gpr r ∧ d.src2 = .none ∨ d.src1 = .none ∧ d.src2 = .gpr r ∨ d.src1 = .gpr r ∧ d.src2 = .gpr r

/-- With no HI or LO write ahead, the decision is that of the only source. -/
theorem stallDecision_of_readsOnly {mode : ForwardMode} {d : DecodeInfo} {e m : PipeReg} {r : RegIdx} (hd : d.ReadsOnly r)
    (he : e.writesHiLo = false) (hm : m.writesHiLo = false) :
    stallDecision mode d e m = (selectSrc mode e m (.gpr r)).1 := by
  have hhilo : hiloStall d e m = false := by simp [hiloStall, he, hm]
  have hnone : selectSrc mode e m .none = (false, .none) := rfl
  rcases hd with ⟨h1, h2⟩ | ⟨h1, h2⟩ | ⟨h1, h2⟩ <;> simp [stallDecision, hhilo, hnone, h1, h2]

section
variable {mode : ForwardMode} {d : DecodeInfo} {e m : PipeReg} {r : RegIdx}

/-- Behind the producer, the consumer waits without a bypass, and for a load (41_decode_hazard.md R119). -/
theorem stallDecision_behind_producer (hr : r ≠ 0) (hd : d.ReadsOnly r) (he : e.writesGpr r = true) (hhilo : e.writesHiLo = false)
    (hm : m.isNop = true) : stallDecision mode d e m = true ↔ mode = .none ∨ e.isLoad = true := by
  rw [stallDecision_of_readsOnly hd hhilo (PipeReg.writesHiLo_of_nop hm)]
  by_cases hmode : mode = .none
  · simp [hmode, selectSrc_gpr_stall hr, he]
  · rw [selectSrc_gpr_bypass hr hmode, if_pos he]
    cases e.isLoad <;> simp [hmode]

/-- One tick later, with the producer in Memory, it waits unless Memory's result is bypassed (41_decode_hazard.md R119). -/
theorem stallDecision_behind_bubble (hr : r ≠ 0) (hd : d.ReadsOnly r) (he : e.isNop = true) (hm : m.writesGpr r = true)
    (hhilo : m.writesHiLo = false) : stallDecision mode d e m = true ↔ mode ≠ .exmem := by
  rw [stallDecision_of_readsOnly hd (PipeReg.writesHiLo_of_nop he) hhilo]
  have hno := PipeReg.writesGpr_of_nop he r
  by_cases hmode : mode = .none
  · simp [hmode, selectSrc_gpr_stall hr, hm]
  · rw [selectSrc_gpr_bypass hr hmode, if_neg (by simp [hno]), if_pos hm]
    cases mode <;> simp

end

/-- The first three ticks of a consumer whose producer is in Execute with no instruction ahead of it in Memory: the first decision is
against the producer in Execute, the second against it in Memory, and for the third it is out of sight (41_decode_hazard.md R119). -/
theorem consumer_ticks {c : Cfg} {s t1 t2 t3 : State} {d : DecodeInfo} {r : RegIdx} (hf1 : TickFlow c s t1)
    (hf2 : TickFlow c t1 t2) (hf3 : TickFlow c t2 t3) (hr : r ≠ 0) (hreal : s.ifId.cur.isNop = false)
    (hw : c.decode s.ifId.cur.ins = .legal d) (hd : d.ReadsOnly r) (hE : s.idEx.cur.writesGpr r = true)
    (hhilo : s.idEx.cur.writesHiLo = false) (hM : s.exMem.cur.isNop = true) :
    ((s.fwdMode = .none ∨ s.idEx.cur.isLoad = true → Held s t1) ∧
      (¬ (s.fwdMode = .none ∨ s.idEx.cur.isLoad = true) → Issued s t1)) ∧
    (Held s t1 → (s.fwdMode ≠ .exmem → Held t1 t2) ∧ (¬ s.fwdMode ≠ .exmem → Issued t1 t2)) ∧
    (Held s t1 → Held t1 t2 → Issued t2 t3) := by
  refine ⟨hf1.decided hreal hw (stallDecision_behind_producer hr hd hE hhilo hM), fun h1 => ?_, fun h1 h2 => ?_⟩
  · have hcarries := hf1.carries_of_writesGpr hE
    rw [← hf1.fwdMode]
    exact hf2.decided (by rw [h1.ifId, hreal]) (by rw [h1.ifId, hw]) (stallDecision_behind_bubble hr hd (by rw [h1.idEx]; rfl)
      (by rw [hcarries.writesGpr, hE]) (by rw [hcarries.writesHiLo, hhilo]))
  · have hbubble : t2.exMem.cur = bubble := hf2.executeNone (by rw [h1.idEx]; rfl)
    have hgo : stallDecision t2.fwdMode d t2.idEx.cur t2.exMem.cur = false :=
      stallDecision_of_bubbles d (by rw [h2.idEx]; rfl) (by rw [hbubble]; rfl)
    exact (hf3.decided (P := False) (by rw [h2.ifId, h1.ifId, hreal]) (by rw [h2.ifId, h1.ifId, hw]) (by simp [hgo])).2 id

/-- Settles O25: the three ticks of the consumer, by mode and kind of producer. -/
theorem stallCyclesAtDistanceOne : Obligations.StallCyclesAtDistanceOne := by
  intro s t1 t2 t3 a w d r hr hifId hw hd hE hhilo hM hrun1 hrun2 hrun3 hend
  have hstep1 : step s = .next t1 := (run_succ_eq_step (k := 0) rfl).symm.trans hrun1
  have hstep2 : step t1 = .next t2 := (run_succ_eq_step hrun1).symm.trans hrun2
  have hstep3 : step t2 = .next t3 := (run_succ_eq_step hrun2).symm.trans hrun3
  obtain ⟨-, -, -, htick1⟩ := step_next.mp hstep1
  obtain ⟨-, -, hend1, htick2⟩ := step_next.mp hstep2
  obtain ⟨-, -, hend2, htick3⟩ := step_next.mp hstep3
  obtain ⟨⟨hheld1, hissued1⟩, hsecond, hthird⟩ := consumer_ticks (tick_flow htick1 hend1) (tick_flow htick2 hend2)
    (tick_flow htick3 hend) hr (by rw [hifId]; rfl) (by rw [hifId]; exact hw) hd hE hhilo hM
  have hissued : ∀ {u v}, u.ifId.cur = s.ifId.cur → Issued u v → v.stall = false ∧ v.idEx.cur.pc = a ∧ v.idEx.cur.ins = w :=
    fun hu h => ⟨h.stall, by rw [h.pc, hu, hifId]; rfl, by rw [h.ins, hu, hifId]; rfl⟩
  have htwo : Held s t1 → s.fwdMode ≠ .exmem →
      t1.stall = true ∧ t2.stall = true ∧ t3.stall = false ∧ t3.idEx.cur.pc = a ∧ t3.idEx.cur.ins = w := fun h1 hmode =>
    have h2 := (hsecond h1).1 hmode
    ⟨h1.stall, h2.stall, hissued (h2.ifId.trans h1.ifId) (hthird h1 h2)⟩
  cases hmode : s.fwdMode <;> cases hload : s.idEx.cur.isLoad <;> simp only [hmode, hload] at hheld1 hissued1 hsecond htwo
  case none.false | none.true | ex.true => exact htwo (hheld1 (by simp)) (by simp)
  case ex.false | exmem.false => exact hissued rfl (hissued1 (by simp))
  case exmem.true =>
    have h1 := hheld1 (by simp)
    exact ⟨h1.stall, hissued h1.ifId ((hsecond h1).2 (by simp))⟩

/-! ## An illegal word on its way to Writeback (41_decode_hazard.md R118; 43_memory_writeback.md R149) -/

/-- A slot that no stage acts on: a bubble or an illegal opcode. -/
def PipeReg.inert (p : PipeReg) : Bool := p.isNop || p.isIllegal

/-- Memory passes an inert register through (43_memory_writeback.md R144, R146). -/
theorem memStep_of_inert {c : Cfg} {s : State} (h : s.exMem.cur.inert = true) : memStep c s = .ok (s.putMemWb s.exMem.cur) := by
  have hpass : memPass c.memop s.exMem.cur s.mem = .ok (s.exMem.cur, s.mem) := by
    rcases Bool.or_eq_true _ _ ▸ h with h | h <;> simp [memPass, h]
  rw [memStep, hpass]
  rfl

/-- What Execute hands on of an inert register: a bubble is cleared. -/
def PipeReg.passed (p : PipeReg) : PipeReg := if p.isNop then bubble else p

@[simp] theorem PipeReg.passed_isNop (p : PipeReg) : p.passed.isNop = p.isNop := by
  unfold PipeReg.passed
  split <;> simp_all [bubble]

theorem PipeReg.passed_of_nop {p : PipeReg} (h : p.isNop = true) : p.passed = bubble := if_pos h

/-- Execute passes an illegal opcode on and clears a bubble, and touches nothing else (42_execute_delay_slot.md R124, R137). -/
theorem exStep_of_inert {c : Cfg} {s : State} (h : s.idEx.cur.inert = true) :
    exStep c s = .ok (s.putExMem s.idEx.cur.passed) := by
  cases hn : s.idEx.cur.isNop with
  | true => rw [PipeReg.passed_of_nop hn, exStep_of_bubble hn]
  | false =>
    have hi : s.idEx.cur.isIllegal = true := by simpa [PipeReg.inert, hn] using h
    simp [exStep, PipeReg.passed, hn, hi]

/-- Decode raises the illegal flag for `p`, or hands on a bubble `p` under a flag that is raised (41_decode_hazard.md R99, R118). -/
def DecodesInert (c : Cfg) (s : State) (p : PipeReg) : Prop :=
  (s.ifId.cur.isNop = true ∧ s.illegalPending = true ∧ p = bubble) ∨
  (s.ifId.cur.isNop = false ∧ c.decode s.ifId.cur.ins = .illegal ∧ p = illegalReg s.ifId.cur)

theorem State.raiseIllegal_of_pending {s : State} (h : s.illegalPending = true) : s.raiseIllegal = s := by
  rw [State.raiseIllegal, ← h]

theorem DecodesInert.idStep {c : Cfg} {s : State} {p : PipeReg} (h : DecodesInert c s p) :
    idStep c s = .ok ((s.setStall false).putIdEx p).raiseIllegal := by
  rcases h with ⟨hn, hi, rfl⟩ | ⟨hn, hw, rfl⟩
  · rw [idStep_of_bubble hn, State.raiseIllegal_of_pending (by exact hi)]
  · simp [Machine.idStep, hn, hw]

/-- A tick from `s` to `t` in which no stage acts: the slots move on, Decode hands on `p`, and the illegal flag keeps Fetch idle. -/
structure InertTick (s t : State) (p : PipeReg) : Prop where
  step : step s = .next t
  live : t.mayTick = true
  arch : SameArch t s
  nCycles : t.nCycles = s.nCycles + 1
  illegalPending : t.illegalPending = true
  ifId : t.ifId.cur = bubble
  idEx : t.idEx.cur = p
  exMem : t.exMem.cur = s.idEx.cur.passed
  memWb : t.memWb.cur = s.exMem.cur

/-- Such a tick happens when every stage finds an inert slot; it does not end the run while an instruction is left. -/
theorem exists_inertTick {s : State} {p : PipeReg} (hlive : s.mayTick = true) (hx0 : s.x[0] = 0)
    (hD : DecodesInert Cfg.reference s p) (hE : s.idEx.cur.inert = true) (hM : s.exMem.cur.inert = true)
    (hW : s.memWb.cur.isNop = true) (hbusy : (p.isNop && s.idEx.cur.isNop && s.exMem.cur.isNop) = false) :
    ∃ t, InertTick s t p := by
  obtain ⟨hbooted, hexit, hfault⟩ := State.mayTick_iff.mp hlive
  have hwb : wbStep Cfg.reference s = .ok s := by rw [wbStep_of_bubble hW, State.forceX0_of_x0 hx0]
  have htick := tick_of_steps hwb hexit (memStep_of_inert hM) (exStep_of_inert (by exact hE))
    (DecodesInert.idStep (by exact hD)) (ifStep_of_disabled (by simp [State.fetchEn]) (by simp))
  refine ⟨_, step_next.mpr ⟨hfault, hbooted, hexit, htick⟩, State.mayTick_iff.mpr ⟨?_, ?_, ?_⟩, ?_, ?_, ?_, ?_, ?_, ?_, ?_⟩
  · simp [hbooted]
  · rw [State.commit_exit _ (by simp [hexit])]
    have hleft : ¬ (p.isNop = true ∧ s.idEx.cur.isNop = true ∧ s.exMem.cur.isNop = true) := by simpa [and_assoc] using hbusy
    simp [State.drained, and_assoc, hleft]
  · simp [hfault]
  · constructor <;> simp
  all_goals simp

/-- An illegal opcode in Writeback halts (43_memory_writeback.md R149). -/
theorem wbStep_of_illegal {c : Cfg} {s : State} (hn : s.memWb.cur.isNop = false) (hs : s.memWb.cur.isSyscall = false)
    (hi : s.memWb.cur.isIllegal = true) : wbStep c s = .ok s.haltIllegal := by
  simp [wbStep, hn, hs, hi]

/-- Settles O32: the word is decoded to an inert register, and three ticks carry it to Writeback, which halts. -/
theorem illegalWordIsInert : Obligations.IllegalWordIsInert := by
  intro s a w hlive hinv hifId hw hE hM hW
  have hinert : ∀ {q : PipeReg}, q.isNop = true → q.inert = true := fun h => by simp [PipeReg.inert, h]
  have hillegal : Cfg.reference.decode w = .illegal := by simp [Cfg.reference, refDecode, hw]
  obtain ⟨t1, h1⟩ := exists_inertTick (p := illegalReg (fetched a w)) hlive hinv.x0
    (.inr (by rw [hifId]; exact ⟨rfl, hillegal, rfl⟩)) (hinert hE) (hinert hM) hW rfl
  obtain ⟨t2, h2⟩ := exists_inertTick (s := t1) (p := bubble) h1.live (by simp only [h1.arch.x, hinv.x0])
    (.inl (by rw [h1.ifId]; exact ⟨rfl, h1.illegalPending, rfl⟩)) (by rw [h1.idEx]; rfl)
    (by rw [h1.exMem, PipeReg.passed_of_nop hE]; rfl) (by rw [h1.memWb, hM]) (by rw [h1.idEx]; rfl)
  have harch2 := h2.arch.trans h1.arch
  obtain ⟨t3, h3⟩ := exists_inertTick (s := t2) (p := bubble) h2.live (by simp only [harch2.x, hinv.x0])
    (.inl (by rw [h2.ifId]; exact ⟨rfl, h2.illegalPending, rfl⟩)) (by rw [h2.idEx]; rfl) (by rw [h2.exMem, h1.idEx]; rfl)
    (by rw [h2.memWb, h1.exMem, PipeReg.passed_of_nop hE]; rfl) (by rw [h2.idEx, h2.exMem, h1.idEx]; rfl)
  have harch3 := h3.arch.trans harch2
  have hhere : t3.memWb.cur = illegalReg (fetched a w) := by rw [h3.memWb, h2.exMem, h1.idEx]; rfl
  obtain ⟨hbooted, hexit, hfault⟩ := State.mayTick_iff.mp h3.live
  have hwb : wbStep Cfg.reference t3 = .ok t3.haltIllegal :=
    wbStep_of_illegal (by rw [hhere]; rfl) (by rw [hhere]; rfl) (by rw [hhere]; rfl)
  have hend : step t3 = .next t3.haltIllegal.countCycle := step_next.mpr ⟨hfault, hbooted, hexit, tick_of_halt hwb rfl⟩
  refine ⟨t3.haltIllegal.countCycle, ?_, rfl, rfl, ?_, ?_, ?_, ?_⟩
  · rw [run_succ_of_next h1.step, run_succ_of_next h2.step, run_succ_of_next h3.step, run_succ_of_next hend]; rfl
  · exact SameArch.trans (by constructor <;> rfl) harch3
  · exact congrArg PipeReg.pc hhere
  · exact congrArg PipeReg.ins hhere
  · simp [h3.nCycles, h2.nCycles, h1.nCycles]

end Sys2Proof.Machine
end

section
/-! SUPPORT. The proofs of the family 42_execute_delay_slot.md: what the EX step answers, by what it finds in its slot, under every
configuration (R124, R127 to R133), and the control instructions of the reference in a delay slot. -/

namespace Sys2Proof.Machine

section
variable {alu : Mnemonic → AluIn → AluOut} {i : PipeReg} {v1 v2 : DWord} {s : State} {out : AluOut}
  (hout : aluCall alu i (aluInput i v1 v2 s.hi s.lo) = out)
include hout

/-- Execute's part when the call neither faults nor breaks the delay-slot rule, whether a handler is called or not
(42_execute_delay_slot.md R127, R131 to R133). -/
theorem execPass_of_aluCall (hf : out.fault = none) (hb : (s.bdPending && out.bd) = false) :
    execPass alu i v1 v2 s =
      .ok (executed i v1 v2 out, (if i.aluId.isSome then s.bump i.cat else s).resolveDelaySlot out) := by
  simp only [execPass, hout, hf, hb, Bool.false_eq_true, if_false]

/-- Execute's part of a control instruction in a delay slot (42_execute_delay_slot.md R131). -/
theorem execPass_control_fault (hf : out.fault = none) (hpend : s.bdPending = true) (hbd : out.bd = true) :
    execPass alu i v1 v2 s = .error (.controlInDelaySlot i.pc) := by
  simp only [execPass, hout, hf, hpend, hbd, Bool.and_self, if_true]

end

/-! ## The EX step, by what it finds in its slot -/

theorem exStep_of_illegal {c : Cfg} {s : State} (hn : s.idEx.cur.isNop = false) (hi : s.idEx.cur.isIllegal = true) :
    exStep c s = .ok (s.putExMem s.idEx.cur) := by
  simp only [exStep, hn, hi, Bool.false_eq_true, if_false, if_true]

/-- A system call faults in a delay slot (42_execute_delay_slot.md R131). -/
theorem exStep_syscall_fault {c : Cfg} {s : State} (hn : s.idEx.cur.isNop = false) (hi : s.idEx.cur.isIllegal = false)
    (hs : s.idEx.cur.isSyscall = true) (hpend : s.bdPending = true) :
    exStep c s = .error (.controlInDelaySlot s.idEx.cur.pc) := by
  simp only [exStep, hn, hi, hs, hpend, Bool.false_eq_true, if_false, if_true]

/-- Every other instruction executes with its substituted operands (42_execute_delay_slot.md R125, R127). -/
theorem exStep_of_executing {c : Cfg} {s : State} (hn : s.idEx.cur.isNop = false) (hi : s.idEx.cur.isIllegal = false)
    (hs : s.idEx.cur.isSyscall = false) :
    exStep c s = (execPass c.alu s.idEx.cur (fwdVal s s.idEx.cur.fwd1 s.idEx.cur.val1)
      (fwdVal s s.idEx.cur.fwd2 s.idEx.cur.val2) s).map fun a => a.2.putExMem a.1 := by
  simp only [exStep, hn, hi, hs, Bool.false_eq_true, if_false]
  split <;> simp only [*, Except.map]

/-- Settles O29: by the bubble's branch of the EX step. -/
theorem bubblePassesExecute : Obligations.BubblePassesExecute := fun _ _ hn => exStep_of_bubble hn

/-- Settles O28: outside a delay slot, the handler's outcome is what sets the controller. -/
theorem controlSetsController : Obligations.ControlSetsController := by
  intro c s hpend i out hn hi hs ha hf hbd
  have hpass := execPass_of_aluCall (alu := c.alu) (i := i) (out := out) rfl hf (by simp [hpend])
  refine ⟨_, by rw [exStep_of_executing hn hi hs, hpass]; rfl, ?_⟩
  simp [executed, ha, hpend, hbd]

/-- Settles O27: by the branches of the EX step, and for an instruction that executes by whether it is a control instruction. -/
theorem delaySlotConsumption : Obligations.DelaySlotConsumption := by
  intro c s hpend i v1 v2 out
  refine ⟨exStep_of_bubble, exStep_of_illegal, fun hn hi hs => exStep_syscall_fault hn hi hs hpend, ?_, ?_⟩
  · intro hn hi hs hf hbd
    rw [exStep_of_executing hn hi hs, execPass_control_fault (out := out) rfl hf hpend hbd]
    rfl
  · intro hn hi hs hf hbd
    have hpass := execPass_of_aluCall (alu := c.alu) (i := i) (v1 := v1) (v2 := v2) (out := out) rfl hf (by simp [hbd])
    refine ⟨_, by rw [exStep_of_executing hn hi hs, hpass]; rfl, ?_⟩
    cases i.aluId.isSome <;> simp [executed, hpend]

/-! ## Control instructions in `exec` -/

/-- The handler of a control instruction never faults, and always reports a branch (45_reference_isa_int.md R196 to R207). -/
theorem refAlu_of_isControl {i : Instr} (h : i.isControl = true) (a : AluIn) :
    (refAlu i.mnemonic a).fault = none ∧ (refAlu i.mnemonic a).bd = true := by
  cases i
  case j | jal | jr | jalr | beq | bne | blez | bgtz | bltz | bgez | bltzal | bgezal => exact ⟨rfl, rfl⟩
  all_goals nomatch h

theorem Instr.wellFormed_of_isControl {i : Instr} (h : i.isControl = true) : i.wellFormed = true := by
  cases i
  case j | jal | jr | jalr | beq | bne | blez | bgtz | bltz | bgez | bltzal | bgezal => rfl
  all_goals nomatch h

/-- An instruction whose handler reports a branch faults in a delay slot, naming its own address
(42_execute_delay_slot.md R131). -/
theorem runAlone_control_fault {w : Word} {d : DecodeInfo} {alu : AluIn → AluOut}
    {mem : MemIn → Memory → Except Fault MemOut} {s : State} (ha : d.aluId.isSome = true)
    (hcontrol : ∀ a, (alu a).fault = none ∧ (alu a).bd = true) (hpend : s.bdPending = true) :
    runAlone w d alu mem s = .fault (.controlInDelaySlot s.pc) := by
  obtain ⟨id, hid⟩ := Option.isSome_iff_exists.mp ha
  have hout : ∀ a, aluCall (fun _ => alu) (soloRegister s w d) a = alu a := fun a => by
    simp only [aluCall, show (soloRegister s w d).aluId = some id from hid]
  rw [runAlone, execPass_control_fault (hout _) (hcontrol _).1 (by exact hpend) (hcontrol _).2]
  rfl

/-- Settles O47: a control instruction's handler reports a branch, and a system call's passage tests the controller itself. -/
theorem controlInDelaySlotFaults : Obligations.ControlInDelaySlotFaults := by
  rintro s i hpend (hc | rfl)
  · have hne : i ≠ .syscall := by rintro rfl; nomatch hc
    obtain ⟨mem, -, hexec⟩ := exec_eq_runAlone (Instr.wellFormed_of_isControl hc) hne s
    rw [hexec, runAlone_control_fault (by rw [aluId_infoOf hne]; rfl) (refAlu_of_isControl hc) hpend]
  · exact if_pos hpend

end Sys2Proof.Machine
end

section
/-! SUPPORT. The proofs of the family 43_memory_writeback.md: what Writeback does with a normal instruction and an illegal
opcode, and the drain behind a system call (R149 to R156). -/

namespace Sys2Proof.Machine

/-! ## A normal instruction in Writeback (43_memory_writeback.md R151 to R154) -/

theorem getElem_set_regIdx (v : Vector Word 32) (i j : RegIdx) (a : Word) : (v.set i a)[j] = if i == j then a else v[j] := by
  simp [Vector.getElem_set, Fin.ext_iff]

theorem getElem_clear_regIdx (v : Vector Word 32) (j : RegIdx) : (v.set 0 0)[j] = if j = 0 then 0 else v[j] :=
  (getElem_set_regIdx v 0 j 0).trans (by simp only [beq_iff_eq, eq_comm (a := (0 : RegIdx))])

theorem wbStep_of_normal {c : Cfg} {s : State} (hn : s.memWb.cur.isNop = false) (hs : s.memWb.cur.isSyscall = false)
    (hi : s.memWb.cur.isIllegal = false) : wbStep c s = .ok (s.commitReg s.memWb.cur).forceX0 := by
  simp [wbStep, hn, hs, hi]

/-- Writeback of a normal instruction writes registers, HI and LO only. -/
theorem State.commitReg_frame (s : State) (q : PipeReg) :
    s.commitReg q =
      { s with x := (s.commitReg q).x, f := (s.commitReg q).f, hi := (s.commitReg q).hi, lo := (s.commitReg q).lo } := by
  unfold State.commitReg
  cases q.writeReg <;> cases q.writeFReg <;> cases q.fpDouble <;> rfl

theorem State.commitReg_getElem_x (s : State) (q : PipeReg) (i : RegIdx) :
    (s.commitReg q).x[i] = if q.writeReg && q.dst == i then q.resLo else s.x[i] := by
  rw [State.commitReg_x]
  cases q.writeReg
  · rfl
  · exact getElem_set_regIdx s.x q.dst i q.resLo

theorem State.commitReg_getElem_f (s : State) (q : PipeReg) (i : RegIdx) :
    (s.commitReg q).f[i] = if q.writeFReg && q.fpDouble && q.dst + 1 == i then q.resHi
      else if q.writeFReg && q.dst == i then q.resLo else s.f[i] := by
  rw [State.commitReg_f]
  cases q.writeFReg
  · rfl
  · cases q.fpDouble
    · exact getElem_set_regIdx s.f q.dst i q.resLo
    · exact (getElem_set_regIdx _ (q.dst + 1) i q.resHi).trans (by rw [getElem_set_regIdx]; rfl)

/-- Settles O30: the writes its enables name, then `x[0]` forced to zero. It holds of an odd pair too (log entry 16), so
the evenness goes unused. -/
theorem writebackCommitsResult : Obligations.WritebackCommitsResult := by
  intro c s q hn hs hi _
  refine ⟨_, wbStep_of_normal hn hs hi, fun i => ?_, s.commitReg_getElem_f q, s.commitReg_hi q, s.commitReg_lo q, ?_⟩
  · rw [State.forceX0_x, getElem_clear_regIdx, State.commitReg_getElem_x]
  · exact congrArg State.forceX0 (s.commitReg_frame q)

/-! ## An illegal opcode in Writeback (43_memory_writeback.md R149, R150) -/

/-- Settles O31: Writeback halts and the tick only counts; the reports are read from the halted state. -/
theorem illegalOpcodeHaltsAtOnce : Obligations.IllegalOpcodeHaltsAtOnce := by
  intro s hlive hn hs hi
  refine ⟨s.haltIllegal.countCycle, ?_, rfl, rfl, rfl⟩
  rw [step_of_mayTick hlive, tick_of_halt (wbStep_of_illegal hn hs hi) rfl]
  rfl

/-! ## The drain behind a system call (43_memory_writeback.md R156; 41_decode_hazard.md R117) -/

/-- Behind a pending system call Fetch counts no word (40_clock_fetch.md R87). -/
theorem FetchTurn.count_of_pending {s t : State} (h : FetchTurn s t) (hp : t.syscallPending = true) : t.nFetched = s.nFetched := by
  cases h with
  | brought a w enabled => simp [hp] at enabled
  | idle _ _ count => exact count

/-- A system call waits for no register (45_reference_isa_int.md R208). -/
theorem stallDecision_infoSyscall (mode : ForwardMode) (w : Word) (e m : PipeReg) :
    stallDecision mode (infoSyscall w) e m = false := rfl

/-- A system call in Decode goes on to Execute (41_decode_hazard.md R117). -/
theorem DecodeTurn.syscall_issued {s t : State} (h : DecodeTurn Cfg.reference s t) (hreal : s.ifId.cur.isNop = false)
    (hw : decode s.ifId.cur.ins = .ok .syscall) : t.idEx.cur.isSyscall = true ∧ t.idEx.cur.pc = s.ifId.cur.pc := by
  have hlegal : Cfg.reference.decode s.ifId.cur.ins = .legal (infoSyscall s.ifId.cur.ins) := by
    simp [Cfg.reference, refDecode, hw, infoOf]
  cases h with
  | empty none => simp [hreal] at none
  | illegal _ word => simp [hlegal] at word
  | stalled d _ word decision =>
    cases hlegal.symm.trans word
    simp [stallDecision_infoSyscall] at decision
  | issued d v1 v2 t1 t2 _ word _ out =>
    cases hlegal.symm.trans word
    rw [out]
    exact ⟨rfl, rfl⟩

/-- Decode with nothing in it hands on nothing, and leaves the pending flags as Writeback did. -/
theorem DecodeTurn.of_nop {c : Cfg} {s t : State} (h : DecodeTurn c s t) (hn : s.ifId.cur.isNop = true) :
    t.stall = false ∧ t.syscallPending = s.syscallLeft ∧ t.illegalPending = s.illegalPending := by
  cases h with
  | empty _ _ stall syscall illegal => exact ⟨stall, syscall, illegal⟩
  | illegal real | stalled _ real | issued _ _ _ _ _ real => simp [hn] at real

theorem exStep_carries_pc {c : Cfg} {s t : State} (h : exStep c s = .ok t) (hn : s.idEx.cur.isNop = false) :
    t.exMem.nxt.pc = s.idEx.cur.pc := by
  rcases exStep_cases h with ⟨hnop, -⟩ | ⟨-, -, rfl⟩ | ⟨-, -, -, -, rfl⟩ | ⟨-, -, -, p, u, hp, rfl⟩
  · simp [hn] at hnop
  · rfl
  · rfl
  · obtain ⟨out, -, -, -, rfl, -⟩ := execPass_cases hp
    rfl

theorem memPass_carries_pc {memop : Mnemonic → MemIn → Memory → Except Fault MemOut} {p q : PipeReg} {m n : Memory}
    (h : memPass memop p m = .ok (q, n)) : q.pc = p.pc := by
  rcases memPass_cases h with ⟨rfl, -, -⟩ | ⟨-, -, -, id, o, -, -, rfl, -⟩ <;> rfl

/-- Execute and Memory hand on the address of their instruction. -/
theorem tick_carries_pc {c : Cfg} {s t : State} (h : tick c s = .ok t) (he : t.exit = false) :
    (s.idEx.cur.isNop = false → t.exMem.cur.pc = s.idEx.cur.pc) ∧ t.memWb.cur.pc = s.exMem.cur.pc := by
  obtain ⟨s1, h1, ⟨hexit, rfl⟩ | ⟨-, s2, s3, s4, s5, h2, h3, h4, h5, rfl⟩⟩ := tick_cases h
  · rw [State.countCycle_exit, hexit] at he
    cases he
  · obtain ⟨-, wE, wM, -⟩ := wbStep_keeps h1
    obtain ⟨p, m, hp, rfl⟩ := memStep_ok h2
    obtain ⟨-, -, -, xW, -⟩ := exStep_keeps h3
    obtain ⟨fM, fW, -⟩ := front_cases h4 h5
    have hexecute := exStep_carries_pc h3
    rw [State.withMem_idEx, State.putMemWb_idEx, wE] at hexecute
    refine ⟨fun hn => ?_, ?_⟩
    · rw [State.commit_exMem, fM, PipePair.commit_cur, hexecute hn]
    · rw [State.commit_memWb, fW, xW, ← wM]
      exact memPass_carries_pc hp

/-- With nothing in Execute, a tick that fetches reads the word at the program counter that Writeback left. -/
theorem tick_fetches_at {c : Cfg} {s t : State} (h : tick c s = .ok t) (he : t.exit = false) (hE : s.idEx.cur.isNop = true)
    (hen : (!t.stall && !t.syscallPending && !t.illegalPending && !t.bdPending && !s.budgetReached) = true) :
    ∃ s1, wbStep c s = .ok s1 ∧ t.ifId.cur.pc = s1.pc ∧ t.pc = s1.pc + 4 ∧ t.nFetched = s.nFetched + 1 := by
  obtain ⟨s1, h1, ⟨hexit, rfl⟩ | ⟨hlive, s2, s3, s4, s5, h2, h3, h4, h5, rfl⟩⟩ := tick_cases h
  · rw [State.countCycle_exit, hexit] at he
    cases he
  · have hback := backFlow_of_steps h1 hlive h2 h3
    have hpc : s3.pc = s1.pc := by
      obtain ⟨-, wE, -⟩ := wbStep_keeps h1
      obtain ⟨p, m, -, rfl⟩ := memStep_ok h2
      rw [exStep_of_bubble (by simpa [wE] using hE)] at h3
      cases h3
      rfl
    have hbudget : s3.budgetReached = s.budgetReached := State.budgetReached_congr hback.instrBudget hback.nFetched
    obtain ⟨-, -, -, -, fBd, -, -, -, -, -, -, -, -, -, -, fStall, fSys, fIll, -, -, fFetch⟩ := front_cases h4 h5
    rw [hback.nFetched, hbudget, hpc, ← fBd, ← fStall, ← fSys, ← fIll] at fFetch
    rw [(commit_ok he).1] at hen ⊢
    rcases fFetch with ⟨-, ⟨w, -, hw⟩, hnext, hcount⟩ | ⟨hno, -⟩
    · exact ⟨s1, h1, congrArg PipeReg.pc hw, hnext, hcount⟩
    · nomatch hen.symm.trans hno

/-- A system call leaves the program counter at the word after it (43_memory_writeback.md R148). -/
theorem wbStep_pc_of_syscall {c : Cfg} {s t : State} (h : wbStep c s = .ok t) (hn : s.memWb.cur.isNop = false)
    (hs : s.memWb.cur.isSyscall = true) : t.pc = s.memWb.cur.pc + 4 := by
  rcases wbStep_cases h with ⟨hn', -⟩ | ⟨-, -, u, e, -, rfl⟩ | ⟨-, hs', -⟩ | ⟨-, hs', -⟩
  · simp [hn] at hn'
  · rfl
  all_goals simp [hs] at hs'

/-- The system call at address `a` is in Execute. -/
structure CallInExecute (s : State) (a : Word) : Prop where
  inv : DrainInv s
  call : s.idEx.cur.isSyscall = true
  here : s.idEx.cur.pc = a

/-- The system call at address `a` is in Memory, and is in no delay slot. -/
structure CallInMemory (s : State) (a : Word) : Prop where
  inv : DrainInv s
  call : s.exMem.cur.isSyscall = true
  here : s.exMem.cur.pc = a
  bdPending : s.bdPending = false

/-- The system call at address `a` is in Writeback, alone in the pipe. -/
structure CallInWriteback (s : State) (a : Word) : Prop where
  inv : DrainInv s
  call : s.memWb.cur.isSyscall = true
  here : s.memWb.cur.pc = a
  bdPending : s.bdPending = false
  exMem : s.exMem.cur = bubble
  idEx : s.idEx.cur = bubble
  ifId : s.ifId.cur = bubble

theorem PipeReg.drains_of_syscall {p : PipeReg} (h : p.isSyscall = true) : p.drains = true := by simp [PipeReg.drains, h]

section
variable {s t : State} {a : Word}

theorem CallInExecute.of_decode (hinv : DrainInv s) {w : Word} (hifId : s.ifId.cur = fetched a w) (hw : decode w = .ok .syscall)
    (htick : tick Cfg.reference s = .ok t) (he : t.exit = false) : CallInExecute t a := by
  have hf := tick_flow htick he
  obtain ⟨hcall, hpc⟩ := hf.decode.syscall_issued (by rw [hifId]; rfl) (by rw [hifId]; exact hw)
  exact ⟨hf.drainInv hinv, hcall, by rw [hpc, hifId]; rfl⟩

/-- Execute passes the call on only outside a delay slot (42_execute_delay_slot.md R131). -/
theorem CallInExecute.tick (h : CallInExecute s a) (htick : tick Cfg.reference s = .ok t) (he : t.exit = false) :
    CallInMemory t a := by
  have hf := tick_flow htick he
  have hn : s.idEx.cur.isNop = false := h.inv.realIdEx (PipeReg.drains_of_syscall h.call)
  have hi : s.idEx.cur.isIllegal = false := by simpa [h.call] using h.inv.oneFlag s.idEx.cur (by simp)
  obtain ⟨-, hcall, -⟩ := hf.execute_flags h.inv
  refine ⟨hf.drainInv h.inv, hcall.trans h.call, ((tick_carries_pc htick he).1 hn).trans h.here, ?_⟩
  refine Bool.eq_false_iff.mpr fun hbd => ?_
  cases hb : s.bdPending with
  | true => simpa [hn, hi] using hf.bdStays hb hbd
  | false => simpa [h.call] using hf.bdSet hb hbd

/-- With nothing in Execute the controller is not set. -/
theorem AheadFlow.bdPending_of_nop {q p : PipeReg} {bd : Bool} (hf : AheadFlow s q p bd) (hn : s.idEx.cur.isNop = true)
    (hb : s.bdPending = false) : bd = false :=
  Bool.eq_false_iff.mpr fun hbd => by simpa [hn] using hf.bdSet hb hbd

theorem CallInMemory.tick (h : CallInMemory s a) (htick : tick Cfg.reference s = .ok t) (he : t.exit = false) :
    CallInWriteback t a := by
  have hf := tick_flow htick he
  have hdrains := PipeReg.drains_of_syscall h.call
  obtain ⟨hE, -⟩ := h.inv.behindExMem hdrains
  obtain ⟨-, -, hbehind⟩ := hf.behind h.inv
  obtain ⟨-, hidEx, hifId⟩ := hbehind (hf.memory.drains.trans hdrains)
  exact ⟨hf.drainInv h.inv, hf.memory.isSyscall.trans h.call, (tick_carries_pc htick he).2.trans h.here,
    hf.bdPending_of_nop hE h.bdPending, hf.executeNone hE, hidEx, hifId⟩

/-- Writeback serves the call, and the same tick fetches the word after it. -/
theorem CallInWriteback.tick (h : CallInWriteback s a) (hb : s.instrBudget = none) (htick : tick Cfg.reference s = .ok t)
    (he : t.exit = false) :
    t.syscallPending = false ∧ t.nFetched = s.nFetched + 1 ∧ t.ifId.cur.pc = a + 4 ∧ t.pc = a + 8 := by
  have hf := tick_flow htick he
  have hn : s.memWb.cur.isNop = false := h.inv.realMemWb (PipeReg.drains_of_syscall h.call)
  have hi : s.memWb.cur.isIllegal = false := by simpa [h.call] using h.inv.oneFlag s.memWb.cur (by simp)
  have hE : s.idEx.cur.isNop = true := by rw [h.idEx]; rfl
  obtain ⟨hstall, hsys, hill⟩ := hf.decode.of_nop (by rw [h.ifId]; rfl)
  have hserved : t.syscallPending = false := by rw [hsys, h.inv.syscallLeft, h.idEx, h.exMem]; rfl
  have hlegal : t.illegalPending = false := by rw [hill, h.inv.illegalPending, h.idEx, h.exMem, hi]; rfl
  have hbd := hf.bdPending_of_nop hE h.bdPending
  obtain ⟨s1, h1, hfetched, hpc, hcount⟩ :=
    tick_fetches_at htick he hE (by simp [hstall, hserved, hlegal, hbd, State.budgetReached, hb])
  rw [wbStep_pc_of_syscall h1 hn h.call, h.here] at hfetched hpc
  exact ⟨hserved, hcount, hfetched, by rw [hpc, BitVec.add_assoc]; rfl⟩

/-! ## The run of the drain -/

/-- A tick from `s` to `t` that goes on with the call pending. -/
structure DrainTick (s t : State) : Prop where
  exit : t.exit = false
  pending : t.syscallPending = true
  nFetched : t.nFetched = s.nFetched
  instrBudget : t.instrBudget = s.instrBudget

theorem DrainTick.of_tick (htick : tick Cfg.reference s = .ok t) (he : t.exit = false) (hp : t.syscallPending = true) :
    DrainTick s t :=
  ⟨he, hp, (tick_flow htick he).fetch.count_of_pending hp, (tick_countFrame htick).elim (·.instrBudget) (·.instrBudget)⟩

theorem DrainTick.trans {u : State} (h : DrainTick s t) (k : DrainTick t u) : DrainTick s u :=
  ⟨k.exit, k.pending, k.nFetched.trans h.nFetched, k.instrBudget.trans h.instrBudget⟩

theorem CallInExecute.pending (h : CallInExecute s a) : s.syscallPending = true := by simp [h.inv.syscallPending, h.call]
theorem CallInMemory.pending (h : CallInMemory s a) : s.syscallPending = true := by simp [h.inv.syscallPending, h.call]
theorem CallInWriteback.pending (h : CallInWriteback s a) : s.syscallPending = true := by simp [h.inv.syscallPending, h.call]

/-- A run of `k + 1` ticks begins with one. -/
theorem exists_step_of_run_succ {k : Nat} (h : run (k + 1) s = .next t) : ∃ u, step s = .next u ∧ run k u = .next t := by
  cases hs : step s with
  | next u => exact ⟨u, rfl, run_succ_of_next hs ▸ h⟩
  | fault r => simp [run_succ_of_fault hs] at h
  | refused r => simp [run_succ_of_refused hs] at h

end

/-- Settles O33: three ticks carry the call to Writeback, with nothing fetched behind it, and the fourth serves it. That no
illegal opcode is pending follows from the invariant, so the hypothesis goes unused. -/
theorem syscallDrainTiming : Obligations.SyscallDrainTiming := by
  intro s t a w hinv hifId hw _ hb hrun hend
  obtain ⟨t1, hstep1, hrun⟩ := exists_step_of_run_succ hrun
  obtain ⟨t2, hstep2, hrun⟩ := exists_step_of_run_succ hrun
  obtain ⟨t3, hstep3, hrun⟩ := exists_step_of_run_succ hrun
  obtain ⟨t4, hstep4, hrun⟩ := exists_step_of_run_succ hrun
  obtain rfl : t4 = t := by cases hrun; rfl
  obtain ⟨-, -, -, htick1⟩ := step_next.mp hstep1
  obtain ⟨-, -, he1, htick2⟩ := step_next.mp hstep2
  obtain ⟨-, -, he2, htick3⟩ := step_next.mp hstep3
  obtain ⟨-, -, he3, htick4⟩ := step_next.mp hstep4
  have hc1 := CallInExecute.of_decode hinv hifId hw htick1 he1
  have hc2 := hc1.tick htick2 he2
  have hc3 := hc2.tick htick3 he3
  have hd1 := DrainTick.of_tick htick1 he1 hc1.pending
  have hd2 := hd1.trans (.of_tick htick2 he2 hc2.pending)
  have hd3 := hd2.trans (.of_tick htick3 he3 hc3.pending)
  have hrun1 : run 1 s = .next t1 := run_succ_of_next hstep1
  have hrun2 : run 2 s = .next t2 := (run_succ_eq_step hrun1).trans hstep2
  have hrun3 : run 3 s = .next t3 := (run_succ_eq_step hrun2).trans hstep3
  refine ⟨fun k hk1 hk3 => ?_, ⟨t3, hrun3, hc3.call, hc3.here, hc3.exMem, hc3.idEx, hc3.ifId⟩, ?_⟩
  · obtain rfl | rfl | rfl : k = 1 ∨ k = 2 ∨ k = 3 := by omega
    · exact ⟨t1, hrun1, hd1.pending, hd1.nFetched, hd1.exit⟩
    · exact ⟨t2, hrun2, hd2.pending, hd2.nFetched, hd2.exit⟩
    · exact ⟨t3, hrun3, hd3.pending, hd3.nFetched, hd3.exit⟩
  · rw [← hd3.nFetched]
    exact hc3.tick (hd3.instrBudget.trans hb) htick4 hend

end Sys2Proof.Machine
end

section
/-! SUPPORT. The proofs of the family 45_reference_isa_int.md, first part: the passage of one instruction as an update of the state
before it, and the results of the instructions that access no memory (45_reference_isa_int.md R162 to R207). -/

namespace Sys2Proof.Machine

/-! ## What the controller and Writeback make of an outcome -/

/-- Writeback by the decode fields `d` of the result words `lo` and `hi` (43_memory_writeback.md R151 to R154). -/
def State.writeBack (s : State) (d : DecodeInfo) (lo hi : Word) : State :=
  (s.commitReg { bubble with
    dst := d.dst, writeReg := d.writeReg, writeFReg := d.writeFReg, fpDouble := d.fpDouble, hiWrite := d.hiWrite,
    loWrite := d.loWrite, resLo := lo, resHi := hi }).forceX0

/-- An outcome that is no branch lets the program counter move on (42_execute_delay_slot.md R131, R133). -/
theorem State.resolveDelaySlot_advance {out : AluOut} (s : State) (c : CatSet) (hbd : out.bd = false) :
    ((s.setPc (s.pc + 4)).bump c).resolveDelaySlot out = s.advance.bump c := by
  cases hb : s.bdPending
  · simp [State.resolveDelaySlot, State.advance, State.bump, State.setPc, hb, hbd]
  · simp [State.resolveDelaySlot, State.advance, State.bump, State.setPc, hb]

/-- A branch outside a delay slot sets the controller (42_execute_delay_slot.md R132). -/
theorem State.resolveDelaySlot_branch {s : State} {out : AluOut} (c : CatSet) (hb : s.bdPending = false)
    (hbd : out.bd = true) :
    ((s.setPc (s.pc + 4)).bump c).resolveDelaySlot out = (s.branch out.btaken out.btgt).bump c := by
  simp [State.resolveDelaySlot, State.branch, State.bump, State.setPc, hb, hbd]

/-! ## The passage as an update of the state before it -/

section
variable {w : Word} {d : DecodeInfo} {alu : AluIn → AluOut} {mem : MemIn → Memory → Except Fault MemOut} {s : State}
  {out : AluOut}

/-- The ALU handler's input in the passage of the word `w` with decode fields `d`. -/
def State.aluIn (s : State) (w : Word) (d : DecodeInfo) : AluIn :=
  aluInput (soloRegister s w d) (s.readOp d.fpDouble d.src1) (s.readOp d.fpDouble d.src2) s.hi s.lo

/-- The memory handler's input when the ALU handler answered `out`. -/
def State.memIn (s : State) (w : Word) (d : DecodeInfo) (out : AluOut) : MemIn :=
  memInput (executed (soloRegister s w d) (s.readOp d.fpDouble d.src1) (s.readOp d.fpDouble d.src2) out)

/-- An instruction with no memory operation and no branch writes its handler's result back. -/
theorem runAlone_advance (ho : alu (s.aluIn w d) = out) (hm : d.memOp = false := by rfl)
    (ha : d.aluId.isSome = true := by rfl) (hf : out.fault = none := by rfl) (hbd : out.bd = false := by rfl) :
    runAlone w d alu mem s = .next ((s.advance.bump d.cat).writeBack d out.resLo out.resHi) := by
  rw [runAlone_register hm ha ho hf (by simp [hbd]), State.resolveDelaySlot_advance s d.cat hbd]
  rfl

/-- A control instruction outside a delay slot sets the controller and writes its link back. -/
theorem runAlone_branch (ho : alu (s.aluIn w d) = out) (hb : s.bdPending = false) (hm : d.memOp = false := by rfl)
    (ha : d.aluId.isSome = true := by rfl) (hf : out.fault = none := by rfl) (hbd : out.bd = true := by rfl) :
    runAlone w d alu mem s = .next (((s.branch out.btaken out.btgt).bump d.cat).writeBack d out.resLo out.resHi) := by
  rw [runAlone_register hm ha ho hf (by simp [hb]), State.resolveDelaySlot_branch d.cat hb hbd]
  rfl

end

/-! ## Operands of the handlers (45_reference_isa_int.md R157) -/

section
variable {s : State} {w : Word} {d : DecodeInfo} {r : RegIdx}

theorem State.aluIn_ins : (s.aluIn w d).ins = w := rfl

theorem State.aluIn_a (h : d.src1 = .gpr r) : (s.aluIn w d).a = s.readGpr r := by
  simp [State.aluIn, aluInput, AluIn.a, h]

theorem State.aluIn_b (h : d.src2 = .gpr r) : (s.aluIn w d).b = s.readGpr r := by
  simp [State.aluIn, aluInput, AluIn.b, h]

end

/-! ## The forms of register instructions -/

section
variable {s : State} {w : Word} {m : Mnemonic} {alu : AluIn → AluOut} {mem : MemIn → Memory → Except Fault MemOut}
  {rd rs rt : RegIdx}

/-- A shift by a constant (45_reference_isa_int.md R164 to R166): a result `f` of the second operand and the amount. -/
theorem runAlone_infoShift {sh : RegIdx} (f : Word → RegIdx → Word) (hsh : shamtOf w = sh)
    (h : ∀ i, alu i = { resLo := f i.b i.shamt }) :
    runAlone w (infoShift m rd rt w) alu mem s = .next (s.advance.setGpr rd (f (s.readGpr rt) sh)) := by
  subst hsh
  exact runAlone_advance (out := { resLo := f (s.readGpr rt) (shamtOf w) }) (by rw [h, State.aluIn_b rfl]; rfl)

/-- A three-register instruction that cannot fault: a result `f` of the two operands. -/
theorem runAlone_infoThreeReg (f : Word → Word → Word) (h : ∀ i, alu i = { resLo := f i.a i.b }) :
    runAlone w (infoThreeReg m rd rs rt w) alu mem s = .next (s.advance.setGpr rd (f (s.readGpr rs) (s.readGpr rt))) :=
  runAlone_advance (out := { resLo := f (s.readGpr rs) (s.readGpr rt) }) (by rw [h, State.aluIn_a rfl, State.aluIn_b rfl])

/-- An immediate instruction that cannot fault: a result `f` of the operand and the immediate. -/
theorem runAlone_infoImm {imm : BitVec 16} (f : Word → BitVec 16 → Word) (himm : imm16Of w = imm)
    (h : ∀ i, alu i = { resLo := f i.a (imm16Of i.ins) }) :
    runAlone w (infoImm m rt rs w) alu mem s = .next (s.advance.setGpr rt (f (s.readGpr rs) imm)) := by
  subst himm
  exact runAlone_advance (out := { resLo := f (s.readGpr rs) (imm16Of w) }) (by rw [h, State.aluIn_a rfl]; rfl)

/-- An instruction that checks its result `v` for signed overflow, of the exact value `n`
(45_reference_isa_int.md R162). -/
theorem runAlone_checked {d : DecodeInfo} {overflows : Bool} {v : Word} {n : Int}
    (h : alu (s.aluIn w d) = if overflows then { fault := some (.integerOverflow s.pc) } else { resLo := v })
    (hov : overflows = true ↔ ¬ (-2 ^ 31 ≤ n ∧ n < 2 ^ 31)) (hv : v = BitVec.ofInt 32 n)
    (hm : d.memOp = false := by rfl) (ha : d.aluId.isSome = true := by rfl) :
    runAlone w d alu mem s =
      if -2 ^ 31 ≤ n ∧ n < 2 ^ 31 then .next ((s.advance.bump d.cat).writeBack d (BitVec.ofInt 32 n) 0)
      else .fault (.integerOverflow s.pc) := by
  subst hv
  cases overflows
  · rw [if_pos (by simpa using hov)]
    exact runAlone_advance (out := { resLo := BitVec.ofInt 32 n }) h hm ha
  · rw [if_neg (by simpa using hov)]
    exact runAlone_alu_fault ha (congrArg AluOut.fault h)

end

/-! ## Shifts, three-register and immediate instructions (45_reference_isa_int.md R164 to R179, R188 to R195) -/

theorem varAmount_eq (a : Word) : varAmount a = (a.extractLsb' 0 5).toNat := by
  simp [varAmount, BitVec.extractLsb'_toNat]

/-- Settles O37: each shift's result is a function of its form's operands; the canonical word carries the amount. -/
theorem shiftResults : Obligations.ShiftResults := by
  intro s rd rt rs sh
  have hsh : ∀ f, f < 64 → shamtOf (packR 0 0 rt rd sh f) = sh :=
    fun _ => fdOf_packR_reg sh (by decide) (by decide) rt.isLt rd.isLt
  simp only [← varAmount_eq]
  exact ⟨runAlone_infoShift (fun b sh => b <<< sh.val) (hsh 0 (by decide)) fun _ => rfl,
    runAlone_infoShift (fun b sh => b >>> sh.val) (hsh 2 (by decide)) fun _ => rfl,
    runAlone_infoShift (fun b sh => b.sshiftRight sh.val) (hsh 3 (by decide)) fun _ => rfl,
    runAlone_infoThreeReg (fun a b => b <<< varAmount a) fun _ => rfl,
    runAlone_infoThreeReg (fun a b => b >>> varAmount a) fun _ => rfl,
    runAlone_infoThreeReg (fun a b => b.sshiftRight (varAmount a)) fun _ => rfl⟩

theorem boolWord_decide (p : Prop) [Decidable p] : boolWord (decide p) = if p then 1 else 0 := by simp [boolWord]

/-- Settles O38: each result is a function of the two operands. -/
theorem threeRegisterResults : Obligations.ThreeRegisterResults := by
  intro s rd rs rt a b
  exact ⟨runAlone_infoThreeReg (· + ·) fun _ => rfl, runAlone_infoThreeReg (· - ·) fun _ => rfl,
    runAlone_infoThreeReg (· &&& ·) fun _ => rfl, runAlone_infoThreeReg (· ||| ·) fun _ => rfl,
    runAlone_infoThreeReg (· ^^^ ·) fun _ => rfl, runAlone_infoThreeReg (fun a b => ~~~(a ||| b)) fun _ => rfl,
    boolWord_decide (a.toInt < b.toInt) ▸ runAlone_infoThreeReg (fun a b => boolWord (signedLess a b)) fun _ => rfl,
    boolWord_decide (a.toNat < b.toNat) ▸ runAlone_infoThreeReg (fun a b => boolWord (unsignedLess a b)) fun _ => rfl⟩

theorem toInt_signExtend_imm (imm : BitVec 16) : (imm.signExtend 32).toInt = imm.toInt := BitVec.toInt_signExtend_of_le (by decide)

/-- The flag of an addition is the sum's being no signed word (45_reference_isa_int.md R170). -/
theorem addOverflows_iff (a b : Word) :
    addOverflows a b = true ↔ ¬ (-2 ^ 31 ≤ a.toInt + b.toInt ∧ a.toInt + b.toInt < 2 ^ 31) := by
  have h : addOverflows a b = a.saddOverflow b := (BitVec.saddOverflow_eq a b).symm
  rw [h, BitVec.saddOverflow, Bool.or_eq_true, decide_eq_true_eq, decide_eq_true_eq]
  omega

/-- The flag of a subtraction is the difference's being no signed word (45_reference_isa_int.md R172). -/
theorem subOverflows_iff (a b : Word) :
    subOverflows a b = true ↔ ¬ (-2 ^ 31 ≤ a.toInt - b.toInt ∧ a.toInt - b.toInt < 2 ^ 31) := by
  have h : subOverflows a b = a.ssubOverflow b := by
    rw [BitVec.ssubOverflow_eq, subOverflows]
    cases a.msb <;> cases b.msb <;> cases (a - b).msb <;> rfl
  rw [h, BitVec.ssubOverflow, Bool.or_eq_true, decide_eq_true_eq, decide_eq_true_eq]
  omega

theorem add_eq_ofInt (a b : Word) : a + b = BitVec.ofInt 32 (a.toInt + b.toInt) := by
  rw [BitVec.ofInt_add, BitVec.ofInt_toInt, BitVec.ofInt_toInt]

theorem sub_eq_ofInt (a b : Word) : a - b = BitVec.ofInt 32 (a.toInt - b.toInt) := by
  apply BitVec.eq_of_toInt_eq
  rw [BitVec.toInt_sub, BitVec.toInt_ofInt]

/-- Settles O39: the overflow flags are exact, and the word is the exact value where it fits. -/
theorem checkedAddSubResults : Obligations.CheckedAddSubResults := by
  intro s rd rs rt imm a b
  have himm : imm16Of (encode (.addi rd rs imm)) = imm := imm16Of_packI (by decide) rs.isLt rd.isLt
  refine ⟨runAlone_checked ?_ (addOverflows_iff a b) (add_eq_ofInt a b),
    runAlone_checked ?_ (subOverflows_iff a b) (sub_eq_ofInt a b), ?_⟩
  · rw [aluAdd, State.aluIn_a rfl, State.aluIn_b rfl]; rfl
  · rw [aluSub, State.aluIn_a rfl, State.aluIn_b rfl]; rfl
  · rw [← toInt_signExtend_imm imm]
    refine runAlone_checked ?_ (addOverflows_iff a (imm.signExtend 32)) (add_eq_ofInt a (imm.signExtend 32))
    rw [aluAddi, State.aluIn_a rfl, simm, State.aluIn_ins, himm]; rfl

theorem luiImm_eq (w : Word) : luiImm w = (imm16Of w).setWidth 32 <<< 16 := by
  have hlt := (imm16Of w).isLt
  apply BitVec.eq_of_toNat_eq
  rw [luiImm, toNat_append_eq, BitVec.toNat_shiftLeft, Nat.shiftLeft_eq, BitVec.toNat_setWidth]
  simp only [BitVec.ofNat_eq_ofNat, BitVec.toNat_ofNat]
  omega

/-- Settles O40: each result is a function of the operand and the word's immediate field; LUI reads the field alone. -/
theorem immediateResults : Obligations.ImmediateResults := by
  intro s rt rs imm a
  have himm : ∀ op, op < 64 → imm16Of (packI op rs rt imm) = imm := fun _ hop => imm16Of_packI hop rs.isLt rt.isLt
  have hlui : imm16Of (encode (.lui rt imm)) = imm := imm16Of_packI (by decide) (by decide) rt.isLt
  refine ⟨runAlone_infoImm (fun a imm => a + imm.signExtend 32) (himm 0x09 (by decide)) fun _ => rfl, ?_, ?_,
    runAlone_infoImm (fun a imm => a &&& imm.setWidth 32) (himm 0x0C (by decide)) fun _ => rfl,
    runAlone_infoImm (fun a imm => a ||| imm.setWidth 32) (himm 0x0D (by decide)) fun _ => rfl,
    runAlone_infoImm (fun a imm => a ^^^ imm.setWidth 32) (himm 0x0E (by decide)) fun _ => rfl, ?_⟩
  · rw [← toInt_signExtend_imm imm, ← boolWord_decide]
    exact runAlone_infoImm (fun a imm => boolWord (signedLess a (imm.signExtend 32))) (himm 0x0A (by decide)) fun _ => rfl
  · rw [← boolWord_decide]
    exact runAlone_infoImm (fun a imm => boolWord (unsignedLess a (imm.signExtend 32))) (himm 0x0B (by decide)) fun _ => rfl
  · refine runAlone_advance (out := { resLo := imm.setWidth 32 <<< 16 }) ?_
    rw [aluLui, luiImm_eq, State.aluIn_ins, hlui]

/-! ## HI and LO (45_reference_isa_int.md R180 to R187) -/

/-- Settles O41: each handler's result word goes to the one register its decode fields name. -/
theorem hiLoMoveResults : Obligations.HiLoMoveResults := fun s rd rs =>
  ⟨runAlone_advance (out := { resLo := s.hi }) rfl, runAlone_advance (out := { resLo := s.lo }) rfl,
    runAlone_advance (out := { resHi := s.readGpr rs }) (by rw [aluMthi, State.aluIn_a rfl]),
    runAlone_advance (out := { resLo := s.readGpr rs }) (by rw [aluMtlo, State.aluIn_a rfl])⟩

/-- A product of two signed words fits in 64 bits. -/
theorem toInt_ofInt_product (a b : Word) : (BitVec.ofInt 64 (a.toInt * b.toInt)).toInt = a.toInt * b.toInt := by
  have hle : a.toInt * b.toInt ≤ 2 ^ 62 := BitVec.toInt_mul_toInt_le
  have hge : -2 ^ 62 ≤ a.toInt * b.toInt := BitVec.le_toInt_mul_toInt
  exact BitVec.toInt_ofInt_eq_self (by decide) (by omega) (by omega)

theorem toNat_ofNat_product (a b : Word) : (BitVec.ofNat 64 (a.toNat * b.toNat)).toNat = a.toNat * b.toNat := by
  have h : a.toNat * b.toNat < 2 ^ 64 :=
    (Nat.mul_lt_mul'' a.isLt b.isLt).trans_eq (by decide)
  rw [BitVec.toNat_ofNat, Nat.mod_eq_of_lt h]

/-- Settles O42: HI and LO are the halves of the 64-bit product. -/
theorem multiplyResults : Obligations.MultiplyResults := by
  intro s rs rt a b
  refine ⟨⟨high32 (BitVec.ofInt 64 (a.toInt * b.toInt)), low32 (BitVec.ofInt 64 (a.toInt * b.toInt)), ?_, ?_⟩,
    ⟨high32 (BitVec.ofNat 64 (a.toNat * b.toNat)), low32 (BitVec.ofNat 64 (a.toNat * b.toNat)), ?_, ?_⟩⟩
  · rw [← pair, pair_high32_low32, toInt_ofInt_product]
  · exact runAlone_advance (out := splitResult (BitVec.ofInt 64 (a.toInt * b.toInt)))
      (by rw [aluMult, State.aluIn_a rfl, State.aluIn_b rfl])
  · rw [← pair, pair_high32_low32, toNat_ofNat_product]
  · exact runAlone_advance (out := splitResult (BitVec.ofNat 64 (a.toNat * b.toNat)))
      (by rw [aluMultu, State.aluIn_a rfl, State.aluIn_b rfl])

/-! The three cases of DIV's handler, and the two of DIVU's (45_reference_isa_int.md R186, R187). -/

section
variable {i : AluIn}

theorem aluDiv_zero (hb : i.b = 0) : aluDiv i = { fault := some (.divideByZero i.pc) } := if_pos hb

theorem aluDiv_overflow (ha : i.a = 0x80000000) (hb : i.b = 0xFFFFFFFF) :
    aluDiv i = { fault := some (.divideOverflow i.pc) } := by
  simp [aluDiv, divOverflows, ha, hb]

/-- Where DIV has a result, it is the truncated quotient and its remainder. -/
theorem aluDiv_result (hb : i.b ≠ 0) (h : ¬ (i.a = 0x80000000 ∧ i.b = 0xFFFFFFFF)) :
    aluDiv i = { resLo := i.a.sdiv i.b, resHi := i.a.srem i.b } := by
  have hov : divOverflows i.a i.b = false := by simpa [divOverflows] using h
  have hq : (i.a.sdiv i.b).toInt = i.a.toInt.tdiv i.b.toInt :=
    BitVec.toInt_sdiv_of_ne_or_ne _ _ (not_and_or.mp h)
  have hr : (i.a.srem i.b).toInt = i.a.toInt - (i.a.sdiv i.b).toInt * i.b.toInt := by
    rw [hq, BitVec.toInt_srem, Int.tmod_def, Int.mul_comm]
  simp only [aluDiv, hb, hov, if_false, Bool.false_eq_true, ← hq, ← hr, BitVec.ofInt_toInt]

theorem aluDivu_zero (hb : i.b = 0) : aluDivu i = { fault := some (.divideByZero i.pc) } := if_pos hb

theorem aluDivu_result (hb : i.b ≠ 0) : aluDivu i = { resLo := i.a / i.b, resHi := i.a % i.b } := by
  simp only [aluDivu, hb, if_false, ← BitVec.toNat_udiv, ← BitVec.toNat_umod, BitVec.ofNat_toNat, BitVec.setWidth_eq]

end

/-- A remainder that is not zero has the dividend's sign. -/
theorem tmod_pos {a b : Int} (h : 0 < a.tmod b) : 0 < a := by
  by_contra ha
  have := Int.tmod_nonneg b (a := -a) (by omega)
  rw [Int.neg_tmod] at this
  omega

theorem tmod_neg {a b : Int} (h : a.tmod b < 0) : a < 0 := by
  by_contra ha
  have := Int.tmod_nonneg b (a := a) (by omega)
  omega

/-- Settles O43: the results are the library's signed and unsigned quotient and remainder. -/
theorem divideResults : Obligations.DivideResults := by
  intro s rs rt a b hb
  have ha' : ∀ m w, (s.aluIn w (infoMulDiv m rs rt w)).a = a := fun _ _ => State.aluIn_a rfl
  have hb' : ∀ m w, (s.aluIn w (infoMulDiv m rs rt w)).b = b := fun _ _ => State.aluIn_b rfl
  refine ⟨fun hov => ⟨a.srem b, a.sdiv b, ?_, ?_, ?_, ?_, ?_⟩, a % b, a / b, ?_, ?_, ?_⟩
  · rw [BitVec.toInt_sdiv_of_ne_or_ne _ _ (not_and_or.mp hov), BitVec.toInt_srem, Int.tdiv_mul_add_tmod]
  · rw [BitVec.toInt_srem, Int.natAbs_tmod]
    exact Nat.mod_lt _ (Int.natAbs_pos.mpr fun h => hb (BitVec.eq_of_toInt_eq h))
  · rw [BitVec.toInt_srem]
    exact tmod_pos
  · rw [BitVec.toInt_srem]
    exact tmod_neg
  · exact runAlone_advance (out := { resLo := a.sdiv b, resHi := a.srem b })
      (by rw [aluDiv_result (by rwa [infoDiv, hb']) (by rwa [infoDiv, ha', hb']), infoDiv, ha', hb'])
  · rw [BitVec.toNat_udiv, BitVec.toNat_umod, Nat.div_add_mod']
  · rw [BitVec.toNat_umod]
    exact Nat.mod_lt _ (Nat.pos_of_ne_zero fun h => hb (BitVec.eq_of_toNat_eq h))
  · exact runAlone_advance (out := { resLo := a / b, resHi := a % b })
      (by rw [aluDivu_result (by rwa [infoDivu, hb']), infoDivu, ha', hb'])

/-- Settles O44: the handlers' faults name the instruction's own address. -/
theorem divideFaults : Obligations.DivideFaults := by
  intro s rs rt
  refine ⟨fun hb => ⟨?_, ?_⟩, fun ha hb => ?_⟩
  · exact runAlone_alu_fault rfl (congrArg AluOut.fault (aluDiv_zero ((State.aluIn_b rfl).trans hb)))
  · exact runAlone_alu_fault rfl (congrArg AluOut.fault (aluDivu_zero ((State.aluIn_b rfl).trans hb)))
  · exact runAlone_alu_fault rfl
      (congrArg AluOut.fault (aluDiv_overflow ((State.aluIn_a rfl).trans ha) ((State.aluIn_b rfl).trans hb)))

/-! ## Jumps and branches outside a delay slot (45_reference_isa_int.md R196 to R207) -/

theorem jumpTarget_eq (pc w : Word) : jumpTarget pc w = jumpDest pc (target26Of w) := by
  have hdest : jumpDest pc (target26Of w) = ((pc + 4) &&& BitVec.allOnes 32 <<< 28) ||| (target26Of w).setWidth 32 <<< 2 :=
    rfl
  rw [jumpTarget, hdest]
  apply BitVec.eq_of_getLsbD_eq
  intro i hi
  simp only [BitVec.getLsbD_append, BitVec.getLsbD_or, BitVec.getLsbD_and, BitVec.getLsbD_shiftLeft, BitVec.getLsbD_allOnes,
    BitVec.getLsbD_setWidth, BitVec.getLsbD_extractLsb']
  by_cases hzero : i < 2
  · simp [hzero, show i < 28 by omega]
  · by_cases htarget : i - 2 < 26
    · simp [hzero, htarget, hi, show i < 28 by omega, show i - 2 < 32 by omega]
    · have hhigh : (target26Of w).getLsbD (i - 2) = false := BitVec.getLsbD_of_ge _ _ (not_lt.mp htarget)
      have hidx : 28 + (i - 2 - 26) = i := by omega
      simp [hzero, htarget, hi, hhigh, hidx, show ¬ i < 28 by omega, show i - 2 - 26 < 4 by omega,
        show i - 28 < 32 by omega]

theorem branchTarget_eq (pc w : Word) : branchTarget pc (branchOffset w) = branchDest pc (imm16Of w) := by
  have hoff : branchOffset w = (imm16Of w).signExtend 32 * 4 := by
    apply BitVec.eq_of_toInt_eq
    have hlt := BitVec.toInt_lt (x := imm16Of w)
    have hle := BitVec.le_toInt (x := imm16Of w)
    have hbmod : ((imm16Of w).toInt * 4).bmod (2 ^ 32) = (imm16Of w).toInt * 4 :=
      Int.bmod_eq_of_le (by omega) (by omega)
    rw [branchOffset, BitVec.toInt_signExtend_of_le (by decide), BitVec.toInt_append, BitVec.toInt_mul,
      BitVec.toInt_signExtend_of_le (by decide), show (4 : Word).toInt = 4 from rfl, hbmod]
    simp [Int.mul_comm]
  rw [branchTarget, branchDest, hoff]

/-- Settles O45: the handlers' targets are the rules', and the operand is read before the link is written. -/
theorem jumpResults : Obligations.JumpResults := by
  intro s rd rs target hb
  have htarget : ∀ op, op < 64 → jumpTarget s.pc (packJ op target) = jumpDest s.pc target := fun op hop => by
    rw [jumpTarget_eq, target26Of_packJ hop]
  exact ⟨runAlone_branch (out := { bd := true, btaken := true, btgt := jumpDest s.pc target })
      (by rw [← htarget 0x02 (by decide)]; rfl) hb,
    runAlone_branch (out := { bd := true, btaken := true, btgt := jumpDest s.pc target, resLo := s.pc + 8 })
      (by rw [← htarget 0x03 (by decide)]; rfl) hb,
    runAlone_branch (out := { bd := true, btaken := true, btgt := s.readGpr rs })
      (by rw [aluJr, State.aluIn_a rfl]) hb,
    runAlone_branch (out := { bd := true, btaken := true, btgt := s.readGpr rs, resLo := s.pc + 8 })
      (by rw [aluJalr, State.aluIn_a rfl]; rfl) hb⟩

section
variable {s : State} {w : Word} {m : Mnemonic} {alu : AluIn → AluOut} {mem : MemIn → Memory → Except Fault MemOut}
  {rs rt : RegIdx} {imm : BitVec 16}

/-- A branch on two registers: it is taken as `f` of the operands says. -/
theorem runAlone_infoBranch2 (f : Word → Word → Bool) (hb : s.bdPending = false) (himm : imm16Of w = imm)
    (h : ∀ i, alu i = { bd := true, btaken := f i.a i.b, btgt := branchTarget i.pc i.branchOff }) :
    runAlone w (infoBranch2 m rs rt w) alu mem s = .next
      ((s.branch (f (s.readGpr rs) (s.readGpr rt)) (branchDest s.pc imm)).bump { condBranch := true }).forceX0 := by
  subst himm
  refine runAlone_branch (out := { bd := true, btaken := f (s.readGpr rs) (s.readGpr rt), btgt := branchDest s.pc (imm16Of w) })
    ?_ hb
  rw [h, State.aluIn_a rfl, State.aluIn_b rfl, ← branchTarget_eq]; rfl

/-- A branch on one register. -/
theorem runAlone_infoBranch1 (f : Word → Bool) (hb : s.bdPending = false) (himm : imm16Of w = imm)
    (h : ∀ i, alu i = { bd := true, btaken := f i.a, btgt := branchTarget i.pc i.branchOff }) :
    runAlone w (infoBranch1 m rs w) alu mem s = .next
      ((s.branch (f (s.readGpr rs)) (branchDest s.pc imm)).bump { condBranch := true }).forceX0 := by
  subst himm
  refine runAlone_branch (out := { bd := true, btaken := f (s.readGpr rs), btgt := branchDest s.pc (imm16Of w) }) ?_ hb
  rw [h, State.aluIn_a rfl, ← branchTarget_eq]; rfl

/-- A branch on one register that links in `x[31]`. -/
theorem runAlone_infoBranchLink (f : Word → Bool) (hb : s.bdPending = false) (himm : imm16Of w = imm)
    (h : ∀ i, alu i =
      { bd := true, btaken := f i.a, btgt := branchTarget i.pc i.branchOff, resLo := linkValue i.pc }) :
    runAlone w (infoBranchLink m rs w) alu mem s = .next
      (((s.branch (f (s.readGpr rs)) (branchDest s.pc imm)).bump { condBranch := true }).setGpr 31 (s.pc + 8)) := by
  subst himm
  refine runAlone_branch
    (out := { bd := true, btaken := f (s.readGpr rs), btgt := branchDest s.pc (imm16Of w), resLo := s.pc + 8 }) ?_ hb
  rw [h, State.aluIn_a rfl, ← branchTarget_eq]; rfl

end

/-- Settles O46: each branch's condition is a function of its form's operands. -/
theorem branchResults : Obligations.BranchResults := by
  intro s rs rt imm hb a b dest cat
  have himm : ∀ op c, op < 64 → c < 32 → imm16Of (packI op rs c imm) = imm := fun _ _ hop => imm16Of_packI hop rs.isLt
  have hone : ∀ {c}, c < 32 → imm16Of (packI 0x01 rs c imm) = imm := himm _ _ (by decide)
  exact ⟨runAlone_infoBranch2 (fun a b => decide (a = b)) hb (himm 0x04 rt (by decide) rt.isLt) fun _ => rfl,
    runAlone_infoBranch2 (fun a b => decide (a ≠ b)) hb (himm 0x05 rt (by decide) rt.isLt)
      fun _ => by simp only [decide_not]; rfl,
    runAlone_infoBranch1 lessEqZero hb (himm 0x06 0 (by decide) (by decide)) fun _ => rfl,
    runAlone_infoBranch1 greaterZero hb (himm 0x07 0 (by decide) (by decide)) fun _ => rfl,
    runAlone_infoBranch1 lessZero hb (hone (by decide)) fun _ => rfl,
    runAlone_infoBranch1 greaterEqZero hb (hone (by decide)) fun _ => rfl,
    runAlone_infoBranchLink lessZero hb (hone (by decide)) fun _ => rfl,
    runAlone_infoBranchLink greaterEqZero hb (hone (by decide)) fun _ => rfl⟩

end Sys2Proof.Machine
end

section
/-! SUPPORT. The proofs of the family 45_reference_isa_int.md, second part: the loads and stores, from the answers of their memory
handlers (45_reference_isa_int.md R160, R209 to R221; 46_reference_isa_fp.md R256, R257). -/

namespace Sys2Proof.Machine

/-! ## The passage of a memory instruction (45_reference_isa_int.md R160) -/

section
variable {s : State} {w : Word} {d : DecodeInfo} {rs : RegIdx} {imm : BitVec 16}

theorem State.memIn_b {out : AluOut} {v : Word} (h : s.readOp d.fpDouble d.src2 = zext64 v) : (s.memIn w d out).b = v := by
  simp [State.memIn, memInput, executed, MemIn.b, h]

/-- The address a load or store computes is the rule's. -/
theorem State.effectiveAddr_aluIn (h : d.src1 = .gpr rs) (himm : imm16Of w = imm) :
    effectiveAddr (s.aluIn w d).a (s.aluIn w d).ins = s.addrOf rs imm := by
  rw [effectiveAddr, State.aluIn_a h, State.aluIn_ins, simm, himm, State.addrOf]

variable {alu : AluIn → AluOut} {mem : MemIn → Memory → Except Fault MemOut}

/-- A load or store whose handler answers `o` at its effective address leaves the state `t` that Writeback makes of the answer. -/
theorem runAlone_access {o : MemOut} {t : State} (himm : imm16Of w = imm)
    (hmem : mem (s.memIn w d { memAddr := s.addrOf rs imm }) s.mem = .ok o)
    (ht : ((s.advance.bump d.cat).withMem o.mem).writeBack d o.resLo o.resHi = t := by rfl)
    (hsrc : d.src1 = .gpr rs := by rfl) (halu : ∀ i, alu i = { memAddr := effectiveAddr i.a i.ins } := by exact fun _ => rfl)
    (hm : d.memOp = true := by rfl) (ha : d.aluId.isSome = true := by rfl) (hi : d.memId.isSome = true := by rfl) :
    runAlone w d alu mem s = .next t := by
  subst ht
  have ho : alu (s.aluIn w d) = { memAddr := s.addrOf rs imm } := by rw [halu, State.effectiveAddr_aluIn hsrc himm]
  rw [runAlone_memory hm ha hi ho rfl rfl hmem, State.resolveDelaySlot_advance s d.cat rfl]
  rfl

/-- A load or store whose handler faults at its effective address. -/
theorem runAlone_access_fault (himm : imm16Of w = imm) {r : Fault}
    (hmem : mem (s.memIn w d { memAddr := s.addrOf rs imm }) s.mem = .error r)
    (hsrc : d.src1 = .gpr rs := by rfl) (halu : ∀ i, alu i = { memAddr := effectiveAddr i.a i.ins } := by exact fun _ => rfl)
    (hm : d.memOp = true := by rfl) (ha : d.aluId.isSome = true := by rfl) (hi : d.memId.isSome = true := by rfl) :
    runAlone w d alu mem s = .fault r := by
  have ho : alu (s.aluIn w d) = { memAddr := s.addrOf rs imm } := by rw [halu, State.effectiveAddr_aluIn hsrc himm]
  exact runAlone_memory_fault hm ha hi ho rfl rfl hmem

end

/-! ## What a memory handler answers -/

/-- A handler that checks alignment goes on at an aligned address (45_reference_isa_int.md R216). -/
theorem ite_aligned_ok {b : Bool} {x : Except Fault MemOut} {r : Fault} {o : MemOut} (hb : b = true) (h : x = .ok o) :
    (if b then x else .error r) = .ok o := by rw [if_pos hb, h]

/-- A load's handler answers the value read, and the memory it was given. -/
theorem bind_read_ok {α : Type} {r : Except Fault α} {m : Memory} {lo : α → Word} {v : α} (h : r = .ok v) :
    (do let v ← r; return { mem := m, resLo := lo v, resHi := 0 }) =
      (Except.ok { mem := m, resLo := lo v, resHi := 0 } : Except Fault MemOut) := by rw [h]; rfl

theorem bind_read_error {α : Type} {r : Except Fault α} {m : Memory} {lo : α → Word} {e : Fault} (h : r = .error e) :
    (do let v ← r; return { mem := m, resLo := lo v, resHi := 0 }) = (Except.error e : Except Fault MemOut) := by rw [h]; rfl

theorem aligned2_iff {a : Word} : aligned2 a = true ↔ a.toNat % 2 = 0 := by simp [aligned2]

theorem aligned4_iff {a : Word} : aligned4 a = true ↔ a.toNat % 4 = 0 := by simp [aligned4]

/-- The immediate of a canonical I-format word (30_encoding.md R77). -/
theorem imm16Of_packI_regs (rs rt : RegIdx) (imm : BitVec 16) (op : Nat) (hop : op < 64) :
    imm16Of (packI op rs rt imm) = imm :=
  imm16Of_packI hop rs.isLt rt.isLt

/-! ## Aligned loads and stores -/

/-- Settles O49: each handler reads the bytes of its width, and Writeback takes what it answers. -/
theorem loadResults : Obligations.LoadResults := by
  intro s rt rs imm b0 b1 b2 b3 a next h0
  have himm := imm16Of_packI_regs rs rt imm
  have hread1 := Memory.read1_ok.mpr h0
  refine ⟨runAlone_access (himm 0x20 (by decide)) (bind_read_ok hread1),
    runAlone_access (himm 0x24 (by decide)) (bind_read_ok hread1), fun ha h1 => ?_, fun ha h1 h2 h3 => ?_⟩
  · have hread2 := Memory.read2_of_bytes h0 h1
    have hal := aligned2_iff.mpr ha
    exact ⟨runAlone_access (himm 0x21 (by decide)) (ite_aligned_ok hal (bind_read_ok hread2)),
      runAlone_access (himm 0x25 (by decide)) (ite_aligned_ok hal (bind_read_ok hread2))⟩
  · have hread4 := Memory.read4_of_bytes h0 h1 h2 h3
    have hal := aligned4_iff.mpr ha
    exact ⟨runAlone_access (himm 0x23 (by decide)) (ite_aligned_ok hal (bind_read_ok hread4)),
      runAlone_access (himm 0x31 (by decide)) (ite_aligned_ok hal (bind_read_ok hread4))⟩

/-- Settles O52: each handler writes the low part of its second operand, which is the data register. -/
theorem storeResults : Obligations.StoreResults := by
  intro s rt rs imm a b next
  have himm := imm16Of_packI_regs rs rt imm
  refine ⟨runAlone_access (himm 0x28 (by decide)) rfl ?_, fun ha => ?_, fun ha => ⟨?_, ?_⟩⟩
  · rw [State.memIn_b rfl]; rfl
  · refine runAlone_access (himm 0x29 (by decide)) (ite_aligned_ok (aligned2_iff.mpr ha) rfl) ?_
    rw [State.memIn_b rfl]; rfl
  · refine runAlone_access (himm 0x2B (by decide)) (ite_aligned_ok (aligned4_iff.mpr ha) rfl) ?_
    rw [State.memIn_b rfl]; rfl
  · refine runAlone_access (himm 0x39 (by decide)) (ite_aligned_ok (aligned4_iff.mpr ha) rfl) ?_
    rw [State.memIn_b rfl]; rfl

/-! ## Byte lanes (45_reference_isa_int.md R214, R215, R220, R221) -/

/-- A lane's update keeps the bits above and below the lane. -/
theorem setLane_eq_append (v : Word) (b : Byte) {lo hi : Nat} (h : hi + 8 + lo = 32) :
    setLane v lo b = (v.extractLsb' (lo + 8) hi ++ b ++ v.extractLsb' 0 lo).cast h := by
  have hmask : (0xFF : Word) = (BitVec.allOnes 8).setWidth 32 := by decide
  apply BitVec.eq_of_getLsbD_eq
  intro i hi32
  simp only [setLane, hmask, BitVec.getLsbD_cast, BitVec.getLsbD_append, BitVec.getLsbD_or, BitVec.getLsbD_and,
    BitVec.getLsbD_not, BitVec.getLsbD_shiftLeft, BitVec.getLsbD_setWidth, BitVec.getLsbD_allOnes, BitVec.getLsbD_extractLsb']
  by_cases hlow : i < lo
  · simp [hlow, hi32]
  · by_cases hin : i - lo < 8
    · simp [hlow, hin, hi32, show i - lo < 32 by omega]
    · have hidx : lo + 8 + (i - lo - 8) = i := by omega
      have hb : b.getLsbD (i - lo) = false := BitVec.getLsbD_of_ge _ _ (not_lt.mp hin)
      simp [hlow, hin, hi32, hidx, hb, show i - lo - 8 < hi by omega]

theorem toNat_setLane (v : Word) (b : Byte) {lo : Nat} (h : lo ≤ 24) :
    (setLane v lo b).toNat = (v.toNat / 2 ^ (lo + 8) % 2 ^ (24 - lo) * 2 ^ 8 + b.toNat) * 2 ^ lo + v.toNat % 2 ^ lo := by
  rw [setLane_eq_append v b (hi := 24 - lo) (by omega)]
  simp only [BitVec.toNat_cast, toNat_append_eq, BitVec.extractLsb'_toNat, Nat.shiftRight_eq_div_pow, Nat.pow_zero, Nat.div_one]

/-- The word `r` with the bytes `bs` in the lanes `ls`, one after the other. -/
def mergeLanes (r : Word) (ls : List (Word × Nat)) (bs : List Byte) : Word :=
  (ls.zip bs).foldl (fun v c => setLane v c.1.2 c.2) r

/-- The lanes hold the bytes. -/
def Memory.HasLanes (m : Memory) (ls : List (Word × Nat)) (bs : List Byte) : Prop :=
  List.Forall₂ (fun l b => Memory.byte? m l.1 = some b) ls bs

theorem Memory.readLanes_of_bytes {m : Memory} {ls : List (Word × Nat)} {bs : List Byte} (h : m.HasLanes ls bs) (r : Word) :
    Memory.readLanes m ls r = .ok (mergeLanes r ls bs) := by
  induction h generalizing r with
  | nil => rfl
  | cons hb _ ih =>
    rw [Memory.readLanes, Memory.read1_ok.mpr hb]
    exact ih _

/-- The lanes of the left forms at an address with the offset `k` in its word. -/
def leftLanesAt (a : Word) (k : Nat) : List (Word × Nat) :=
  (List.range (4 - k)).map fun j => (a + BitVec.ofNat 32 j, 24 - 8 * j)

/-- The lanes of the right forms. -/
def rightLanesAt (a : Word) (k : Nat) : List (Word × Nat) :=
  (List.range (k + 1)).map fun j => (a - BitVec.ofNat 32 j, 8 * j)

/-! Bytes merged into a word from its top (the left forms) and from its bottom (the right forms). -/

section
variable (r : Word) (b0 b1 b2 b3 : Byte)

theorem setLane_left :
    setLane r 24 b0 = b0 ++ r.extractLsb' 0 24 ∧
    setLane (setLane r 24 b0) 16 b1 = b0 ++ b1 ++ r.extractLsb' 0 16 ∧
    setLane (setLane (setLane r 24 b0) 16 b1) 8 b2 = b0 ++ b1 ++ b2 ++ r.extractLsb' 0 8 ∧
    setLane (setLane (setLane (setLane r 24 b0) 16 b1) 8 b2) 0 b3 = b0 ++ b1 ++ b2 ++ b3 := by
  have h := r.isLt; have h0 := b0.isLt; have h1 := b1.isLt; have h2 := b2.isLt; have h3 := b3.isLt
  refine ⟨?_, ?_, ?_, ?_⟩ <;> apply BitVec.eq_of_toNat_eq <;>
    simp only [toNat_setLane, toNat_append_eq, BitVec.extractLsb'_toNat, Nat.shiftRight_eq_div_pow, Nat.le_refl,
      Nat.reduceLeDiff] <;> omega

theorem setLane_right :
    setLane r 0 b3 = r.extractLsb' 8 24 ++ b3 ∧
    setLane (setLane r 0 b3) 8 b2 = r.extractLsb' 16 16 ++ b2 ++ b3 ∧
    setLane (setLane (setLane r 0 b3) 8 b2) 16 b1 = r.extractLsb' 24 8 ++ b1 ++ b2 ++ b3 ∧
    setLane (setLane (setLane (setLane r 0 b3) 8 b2) 16 b1) 24 b0 = b0 ++ b1 ++ b2 ++ b3 := by
  have h := r.isLt; have h0 := b0.isLt; have h1 := b1.isLt; have h2 := b2.isLt; have h3 := b3.isLt
  refine ⟨?_, ?_, ?_, ?_⟩ <;> apply BitVec.eq_of_toNat_eq <;>
    simp only [toNat_setLane, toNat_append_eq, BitVec.extractLsb'_toNat, Nat.shiftRight_eq_div_pow, Nat.le_refl,
      Nat.reduceLeDiff] <;> omega

end

/-! ## LWL and LWR -/

section
variable {s : State} {rt rs : RegIdx} {imm : BitVec 16} {k : Nat} {bs : List Byte} {v : Word}

theorem exec_lwl_of_bytes (hk : (s.addrOf rs imm).toNat % 4 = k) (hbs : s.mem.HasLanes (leftLanesAt (s.addrOf rs imm) k) bs)
    (hv : mergeLanes (s.readGpr rt) (leftLanesAt (s.addrOf rs imm) k) bs = v) :
    exec (.lwl rt rs imm) s = .next ((s.advance.bump { load := true }).setGpr rt v) := by
  subst hk hv
  refine runAlone_access (imm16Of_packI_regs rs rt imm 0x22 (by decide)) (bind_read_ok (Memory.readLanes_of_bytes hbs _)) ?_
  rw [State.memIn_b rfl]; rfl

theorem exec_lwr_of_bytes (hk : (s.addrOf rs imm).toNat % 4 = k) (hbs : s.mem.HasLanes (rightLanesAt (s.addrOf rs imm) k) bs)
    (hv : mergeLanes (s.readGpr rt) (rightLanesAt (s.addrOf rs imm) k) bs = v) :
    exec (.lwr rt rs imm) s = .next ((s.advance.bump { load := true }).setGpr rt v) := by
  subst hk hv
  refine runAlone_access (imm16Of_packI_regs rs rt imm 0x26 (by decide)) (bind_read_ok (Memory.readLanes_of_bytes hbs _)) ?_
  rw [State.memIn_b rfl]; rfl

end

/-- Settles O50: each lane case merges the bytes read from the top or from the bottom of rt. -/
theorem unalignedLoadResults : Obligations.UnalignedLoadResults := by
  intro s rt rs imm b0 b1 b2 b3 a r next at' below
  obtain ⟨l3, l2, l1, l0⟩ := setLane_left r b0 b1 b2 b3
  obtain ⟨r0, r1, r2, r3⟩ := setLane_right r b0 b1 b2 b3
  exact ⟨fun hk h0 h1 h2 h3 => exec_lwl_of_bytes hk (.cons h0 (.cons h1 (.cons h2 (.cons h3 .nil)))) l0,
    fun hk h0 h1 h2 => exec_lwl_of_bytes hk (.cons h0 (.cons h1 (.cons h2 .nil))) l1,
    fun hk h0 h1 => exec_lwl_of_bytes hk (.cons h0 (.cons h1 .nil)) l2,
    fun hk h0 => exec_lwl_of_bytes hk (.cons h0 .nil) l3,
    fun hk h3 => exec_lwr_of_bytes hk (.cons h3 .nil) r0,
    fun hk h3 h2 => exec_lwr_of_bytes hk (.cons h3 (.cons h2 .nil)) r1,
    fun hk h3 h2 h1 => exec_lwr_of_bytes hk (.cons h3 (.cons h2 (.cons h1 .nil))) r2,
    fun hk h3 h2 h1 h0 => exec_lwr_of_bytes hk (.cons h3 (.cons h2 (.cons h1 (.cons h0 .nil)))) r3⟩

/-! LWL, then LWR three addresses above. -/

theorem State.readGpr_setGpr_same {s : State} {i : RegIdx} (h : i ≠ 0) (v : Word) : (s.setGpr i v).readGpr i = v := by
  rw [State.readGpr_of_ne h, State.setGpr, State.forceX0_getElem, if_neg h, State.writeGpr_x, getElem_set_regIdx,
    if_pos (beq_self_eq_true i)]

theorem State.readGpr_setGpr_other {s : State} {i j : RegIdx} (h : i ≠ j) (v : Word) :
    (s.setGpr i v).readGpr j = s.readGpr j := by
  by_cases hj : j = 0
  · subst hj; rfl
  · rw [State.readGpr_of_ne hj, State.readGpr_of_ne hj, State.setGpr, State.forceX0_getElem, if_neg hj, State.writeGpr_x,
      getElem_set_regIdx, if_neg (by simpa using h)]

/-- An immediate that is three greater names the address three above. -/
theorem State.addrOf_add_three {s t : State} {rs : RegIdx} {imm imm3 : BitVec 16} (hbase : t.readGpr rs = s.readGpr rs)
    (h : imm3.toInt = imm.toInt + 3) : t.addrOf rs imm3 = s.addrOf rs imm + 3 := by
  have himm : imm3.signExtend 32 = imm.signExtend 32 + 3 := by
    rw [add_eq_ofInt, toInt_signExtend_imm, show (3 : Word).toInt = 3 from rfl, ← h, ← toInt_signExtend_imm, BitVec.ofInt_toInt]
  rw [State.addrOf, State.addrOf, hbase, himm, BitVec.add_assoc]

section
variable {s : State} {rt rs : RegIdx} {imm imm3 : BitVec 16} {v w : Word}

/-- LWR after LWL has left `v` in rt. -/
theorem exec_lwr_after_lwl (hrt : rt ≠ 0) (hne : rt ≠ rs) (himm : imm3.toInt = imm.toInt + 3)
    (hl : exec (.lwl rt rs imm) s = .next ((s.advance.bump { load := true }).setGpr rt v)) {k : Nat} {bs : List Byte}
    (hk : (s.addrOf rs imm + 3).toNat % 4 = k) (hbs : s.mem.HasLanes (rightLanesAt (s.addrOf rs imm + 3) k) bs)
    (hw : mergeLanes v (rightLanesAt (s.addrOf rs imm + 3) k) bs = w) :
    ∃ t u, exec (.lwl rt rs imm) s = .next t ∧ exec (.lwr rt rs imm3) t = .next u ∧ u.readGpr rt = w := by
  have ha : ((s.advance.bump { load := true }).setGpr rt v).addrOf rs imm3 = s.addrOf rs imm + 3 :=
    State.addrOf_add_three (State.readGpr_setGpr_other hne v) himm
  have hv : ((s.advance.bump { load := true }).setGpr rt v).readGpr rt = v := State.readGpr_setGpr_same hrt v
  rw [← ha] at hk hbs hw
  exact ⟨_, _, hl, exec_lwr_of_bytes hk hbs (hv.symm ▸ hw), State.readGpr_setGpr_same hrt w⟩

end

/-- Settles O51: LWL leaves the high bytes of the word in rt, and LWR puts the low bytes below them. -/
theorem unalignedPairLoadsWord : Obligations.UnalignedPairLoadsWord := by
  intro s rt rs imm imm3 b0 b1 b2 b3 a hrt hne himm h0 h1 h2 h3
  have hoff : (a + 3).toNat % 4 = (a.toNat % 4 + 3) % 4 := by
    rw [BitVec.toNat_add, show (3 : Word).toNat = 3 from rfl]; omega
  have h0' : Memory.byte? s.mem (a + 0) = some b0 := (BitVec.add_zero a).symm ▸ h0
  have g3 : Memory.byte? s.mem (a + 3 - 0) = some b3 := (add_sub_assoc a 3 0).symm ▸ h3
  have g2 : Memory.byte? s.mem (a + 3 - 1) = some b2 := (add_sub_assoc a 3 1).symm ▸ h2
  have g1 : Memory.byte? s.mem (a + 3 - 2) = some b1 := (add_sub_assoc a 3 2).symm ▸ h1
  have g0 : Memory.byte? s.mem (a + 3 - 3) = some b0 := (add_sub_assoc a 3 3).symm ▸ h0'
  obtain ⟨left3, left2, left1, left0⟩ := setLane_left (s.readGpr rt) b0 b1 b2 b3
  have hk : a.toNat % 4 < 4 := Nat.mod_lt _ (by decide)
  interval_cases hoffset : a.toNat % 4
  · obtain ⟨-, -, -, right3⟩ := setLane_right (b0 ++ b1 ++ b2 ++ b3) b0 b1 b2 b3
    exact exec_lwr_after_lwl hrt hne himm (exec_lwl_of_bytes hoffset (.cons h0' (.cons h1 (.cons h2 (.cons h3 .nil)))) left0)
      hoff (.cons g3 (.cons g2 (.cons g1 (.cons g0 .nil)))) right3
  · obtain ⟨right0, -, -, -⟩ := setLane_right (b0 ++ b1 ++ b2 ++ (s.readGpr rt).extractLsb' 0 8) b0 b1 b2 b3
    rw [BitVec.extractLsb'_append_eq_left] at right0
    exact exec_lwr_after_lwl hrt hne himm (exec_lwl_of_bytes hoffset (.cons h0' (.cons h1 (.cons h2 .nil))) left1)
      hoff (.cons g3 .nil) right0
  · obtain ⟨-, right1, -, -⟩ := setLane_right (b0 ++ b1 ++ (s.readGpr rt).extractLsb' 0 16) b0 b1 b2 b3
    rw [BitVec.extractLsb'_append_eq_left] at right1
    exact exec_lwr_after_lwl hrt hne himm (exec_lwl_of_bytes hoffset (.cons h0' (.cons h1 .nil)) left2)
      hoff (.cons g3 (.cons g2 .nil)) right1
  · obtain ⟨-, -, right2, -⟩ := setLane_right (b0 ++ (s.readGpr rt).extractLsb' 0 24) b0 b1 b2 b3
    rw [BitVec.extractLsb'_append_eq_left] at right2
    exact exec_lwr_after_lwl hrt hne himm (exec_lwl_of_bytes hoffset (.cons h0' .nil) left3)
      hoff (.cons g3 (.cons g2 (.cons g1 .nil))) right2

/-! ## Stores of a part of the word -/

theorem Memory.writeLanes_eq_image (m : Memory) (ls : List (Word × Nat)) (v : Word) :
    Memory.writeLanes m ls v = Memory.writeImage m (ls.map fun l => (l.1, getLane v l.2)) := by
  induction ls generalizing m with
  | nil => rfl
  | cons l ls ih => exact ih _

/-- Where the lanes lie at different addresses, each has its byte of the word. -/
theorem Memory.byte?_writeLanes {n : Nat} {f : Nat → Word} {g : Nat → Nat}
    (hf : ∀ i, i < n → ∀ j, j < n → f i = f j → i = j) (m : Memory) (v : Word) {j : Nat} (hj : j < n) :
    Memory.byte? (Memory.writeLanes m ((List.range n).map fun j => (f j, g j)) v) (f j) = some (v.extractLsb' (g j) 8) := by
  have hnodup : ((List.range n).map f).Nodup :=
    List.Nodup.map_on (fun i hi j hj => hf i (List.mem_range.mp hi) j (List.mem_range.mp hj)) List.nodup_range
  rw [Memory.writeLanes_eq_image]
  refine Memory.byte?_writeImage_mem (c := (f j, v.extractLsb' (g j) 8)) ?_ ?_ m
  · simpa [Function.comp_def] using hnodup
  · rw [List.map_map]
    exact List.mem_map.mpr ⟨j, List.mem_range.mpr hj, rfl⟩

theorem Memory.byte?_writeLanes_range_other {n : Nat} {f : Nat → Word} {g : Nat → Nat} (m : Memory) (v : Word) {c : Word}
    (h : ∀ j, j < n → c ≠ f j) :
    Memory.byte? (Memory.writeLanes m ((List.range n).map fun j => (f j, g j)) v) c = Memory.byte? m c := by
  refine Memory.byte?_writeLanes_other (fun hc => ?_) m v
  rw [List.map_map, List.mem_map] at hc
  obtain ⟨j, hj, rfl⟩ := hc
  exact h j (List.mem_range.mp hj) rfl

theorem offset_sub_inj (a : Word) {j k : Nat} (hj : j < 2 ^ 32) (hk : k < 2 ^ 32)
    (h : a - BitVec.ofNat 32 j = a - BitVec.ofNat 32 k) : j = k :=
  offset_inj 0 hj hk (congrArg (0 + ·) (sub_right_inj.mp h))

/-- Settles O53: the lanes lie at different addresses, so each has its byte of rt, and every other address keeps its own. -/
theorem unalignedStoreResults : Obligations.UnalignedStoreResults := by
  intro s rt rs imm a b k next
  have himm := imm16Of_packI_regs rs rt imm
  have hk : k < 4 := Nat.mod_lt _ (by decide)
  refine ⟨⟨Memory.writeLanes s.mem (leftLanesAt a k) b, ?_, fun j hj => ?_, fun c hc => ?_⟩,
    ⟨Memory.writeLanes s.mem (rightLanesAt a k) b, ?_, fun j hj => ?_, fun c hc => ?_⟩⟩
  · refine runAlone_access (himm 0x2A (by decide)) rfl ?_
    rw [State.memIn_b rfl]; rfl
  · exact Memory.byte?_writeLanes (fun i hi j hj => offset_inj a (by omega) (by omega)) s.mem b hj
  · exact Memory.byte?_writeLanes_range_other s.mem b hc
  · refine runAlone_access (himm 0x2E (by decide)) rfl ?_
    rw [State.memIn_b rfl]; rfl
  · exact Memory.byte?_writeLanes (fun i hi j hj => offset_sub_inj a (by omega) (by omega)) s.mem b hj
  · exact Memory.byte?_writeLanes_range_other s.mem b hc

/-! ## Faults of loads and stores -/

/-- A handler that checks alignment faults at another address. -/
theorem ite_misaligned {b : Bool} {x : Except Fault MemOut} {r : Fault} (hb : b ≠ true) :
    (if b then x else .error r) = .error r := if_neg hb

theorem ite_aligned_error {b : Bool} {x : Except Fault MemOut} {r r' : Fault} (hb : b = true) (h : x = .error r') :
    (if b then x else .error r) = .error r' := by rw [if_pos hb, h]

/-- A read of lanes stops at the first one, where its byte has no value. -/
theorem Memory.readLanes_error {m : Memory} {a : Word} (h : Memory.byte? m a = none) (lo : Nat) (ls : List (Word × Nat))
    (r : Word) : Memory.readLanes m ((a, lo) :: ls) r = .error (.undefinedRead a) := by
  rw [Memory.readLanes, Memory.read1_error.mpr ⟨h, rfl⟩]; rfl

/-- The left and the right forms both begin at the effective address. -/
theorem leftLanes_head (a : Word) : ∃ ls, leftLanes a = (a, 24) :: ls := by
  have hn : 4 - byteOffset a = 3 - byteOffset a + 1 := by
    have hlt : byteOffset a < 4 := Nat.mod_lt _ (by decide)
    omega
  rw [leftLanes, hn, List.range_succ_eq_map, List.map_cons, offset_zero]
  exact ⟨_, rfl⟩

theorem rightLanes_head (a : Word) : ∃ ls, rightLanes a = (a, 0) :: ls := by
  rw [rightLanes, List.range_succ_eq_map, List.map_cons, show a - BitVec.ofNat 32 0 = a from BitVec.sub_zero a]
  exact ⟨_, rfl⟩

/-- Settles O54: a misaligned address fails the handler's check, and a read at a byte with no value stops at it. -/
theorem dataAccessFaults : Obligations.DataAccessFaults := by
  intro s rt rs imm a
  have himm := imm16Of_packI_regs rs rt imm
  simp only [List.mem_cons, List.not_mem_nil, or_false, forall_eq_or_imp, forall_eq]
  refine ⟨fun ha => ?_, fun ha => ?_, fun h0 => ⟨?_, fun ha => ?_, fun ha => ?_⟩⟩
  · have hmis := ha ∘ aligned2_iff.mp
    exact ⟨runAlone_access_fault (himm 0x21 (by decide)) (ite_misaligned hmis),
      runAlone_access_fault (himm 0x25 (by decide)) (ite_misaligned hmis),
      runAlone_access_fault (himm 0x29 (by decide)) (ite_misaligned hmis)⟩
  · have hmis := ha ∘ aligned4_iff.mp
    exact ⟨runAlone_access_fault (himm 0x23 (by decide)) (ite_misaligned hmis),
      runAlone_access_fault (himm 0x2B (by decide)) (ite_misaligned hmis),
      runAlone_access_fault (himm 0x31 (by decide)) (ite_misaligned hmis),
      runAlone_access_fault (himm 0x39 (by decide)) (ite_misaligned hmis)⟩
  · have hread := Memory.read1_error.mpr ⟨h0, rfl⟩
    have hleft : ∀ r, Memory.readLanes s.mem (leftLanes a) r = .error (.undefinedRead a) := by
      obtain ⟨ls, hls⟩ := leftLanes_head a
      exact fun r => hls ▸ Memory.readLanes_error h0 24 ls r
    have hright : ∀ r, Memory.readLanes s.mem (rightLanes a) r = .error (.undefinedRead a) := by
      obtain ⟨ls, hls⟩ := rightLanes_head a
      exact fun r => hls ▸ Memory.readLanes_error h0 0 ls r
    exact ⟨runAlone_access_fault (himm 0x20 (by decide)) (bind_read_error hread),
      runAlone_access_fault (himm 0x24 (by decide)) (bind_read_error hread),
      runAlone_access_fault (himm 0x22 (by decide)) (bind_read_error (hleft _)),
      runAlone_access_fault (himm 0x26 (by decide)) (bind_read_error (hright _))⟩
  · have hal := aligned2_iff.mpr ha
    have hread : Memory.read2 s.mem a = .error (.undefinedRead a) := by rw [Memory.read2, Memory.read1_error.mpr ⟨h0, rfl⟩]; rfl
    exact ⟨runAlone_access_fault (himm 0x21 (by decide)) (ite_aligned_error hal (bind_read_error hread)),
      runAlone_access_fault (himm 0x25 (by decide)) (ite_aligned_error hal (bind_read_error hread))⟩
  · have hal := aligned4_iff.mpr ha
    have hread : Memory.read4 s.mem a = .error (.undefinedRead a) := by rw [Memory.read4, Memory.read1_error.mpr ⟨h0, rfl⟩]; rfl
    exact ⟨runAlone_access_fault (himm 0x23 (by decide)) (ite_aligned_error hal (bind_read_error hread)),
      runAlone_access_fault (himm 0x31 (by decide)) (ite_aligned_error hal (bind_read_error hread))⟩

end Sys2Proof.Machine
end

section
/-! SUPPORT. The proofs of the family 45_reference_isa_int.md, third part: the frames, from what a next state of any
instruction is (45_reference_isa_int.md R157, R161; 43_memory_writeback.md R151 to R154). -/

namespace Sys2Proof.Machine

/-! ## What a next state is -/

/-- Memory and Writeback of a lone instruction's register: memory is as it was, or as the memory handler left it. -/
theorem finishAlone_next {mem : MemIn → Memory → Except Fault MemOut} {p : PipeReg} {s t : State} (hn : p.isNop = false)
    (hi : p.isIllegal = false) (h : finishAlone mem p s = .next t) :
    ∃ o : MemOut, (p.memOp = false ∧ o.mem = s.mem ∨ p.memOp = true ∧ mem (memInput p) s.mem = .ok o) ∧
      t = ((s.withMem o.mem).commitReg (p.withResult o.resLo o.resHi)).forceX0 := by
  unfold finishAlone at h
  split at h
  · cases h
  · rename_i q m hm
    cases h
    rcases memPass_cases hm with ⟨rfl, rfl, hidle⟩ | ⟨-, hop, -, id, o, -, ho, rfl, rfl⟩
    · have hop : q.memOp = false := by simpa [hn, hi] using hidle
      exact ⟨⟨s.mem, q.resLo, q.resHi⟩, .inl ⟨hop, rfl⟩, rfl⟩
    · exact ⟨o, .inr ⟨hop, ho⟩, rfl⟩

/-- The passage of a lone instruction to a next state: its handler did not branch in a delay slot, the controller had the outcome, and
Memory and Writeback followed. -/
theorem runAlone_next {w : Word} {d : DecodeInfo} {alu : AluIn → AluOut} {mem : MemIn → Memory → Except Fault MemOut}
    {s t : State} (ha : d.aluId.isSome = true) (h : runAlone w d alu mem s = .next t) :
    ∃ out o, out = alu (s.aluIn w d) ∧ (s.bdPending && out.bd) = false ∧
      (d.memOp = false ∧ o.mem = s.mem ∨ d.memOp = true ∧ mem (s.memIn w d out) s.mem = .ok o) ∧
      t = ((((s.setPc (s.pc + 4)).bump d.cat).resolveDelaySlot out).withMem o.mem).writeBack d o.resLo o.resHi := by
  obtain ⟨id, hid⟩ := Option.isSome_iff_exists.mp ha
  unfold runAlone at h
  split at h
  · cases h
  · rename_i p u hp
    obtain ⟨out, hout, -, hb, rfl, rfl⟩ := execPass_cases hp
    have hcall : out = alu (s.aluIn w d) := by
      rw [hout, aluCall, show (soloRegister s w d).aluId = some id from hid]; rfl
    obtain ⟨o, ho, rfl⟩ := finishAlone_next (p := executed _ _ _ out) rfl rfl h
    have hid' : (soloRegister s w d).aluId.isSome = true := ha
    rw [if_pos hid'] at ho ⊢
    rw [State.resolveDelaySlot_mem, State.bump_mem, State.setPc_mem] at ho
    exact ⟨out, o, hcall, hb, ho, rfl⟩

/-- A double-precision term with an odd register has no next state (46_reference_isa_fp.md R255). -/
theorem exec_of_not_wellFormed {i : Instr} (h : i.wellFormed = false) (s : State) :
    exec i s = .fault (.unmodelledInstruction (encode i)) := by
  cases i
  case addD | subD | mulD | divD | movD => exact if_neg (by rw [h]; decide)
  all_goals nomatch h

theorem wellFormed_of_exec_next {i : Instr} {s t : State} (h : exec i s = .next t) : i.wellFormed = true := by
  by_contra hwf
  rw [exec_of_not_wellFormed (Bool.not_eq_true _ ▸ hwf)] at h
  cases h

/-! The decode fields are those of the rules' tables (45_reference_isa_int.md R157). -/

theorem gprDest_infoOf (i : Instr) (w : Word) :
    i.gprDest = if (infoOf i w).writeReg then some (infoOf i w).dst else none := by
  cases i <;> rfl

theorem writesFpr_infoOf (i : Instr) (w : Word) (r : RegIdx) : i.writesFpr r =
    ((infoOf i w).writeFReg && ((infoOf i w).dst == r || (infoOf i w).fpDouble && (infoOf i w).dst + 1 == r)) := by
  cases i
  case mtc1 | addS | subS | mulS | divS | movS | lwc1 => exact (Bool.or_false _).symm
  all_goals rfl

theorem writesHi_infoOf (i : Instr) (w : Word) : i.writesHi = (infoOf i w).hiWrite := by cases i <;> rfl

theorem writesLo_infoOf (i : Instr) (w : Word) : i.writesLo = (infoOf i w).loWrite := by cases i <;> rfl

theorem category_infoOf (i : Instr) (w : Word) : i.category = (infoOf i w).cat := by cases i <;> rfl

/-- The handlers that report a branch are those of the control instructions (45_reference_isa_int.md R196 to R207). -/
theorem refAlu_bd (i : Instr) (a : AluIn) : (refAlu i.mnemonic a).bd = i.isControl := by
  cases i
  case add | sub | addi | divu => exact (apply_ite AluOut.bd _ _ _).trans (ite_self _)
  case div =>
    show (aluDiv a).bd = false
    unfold aluDiv
    split
    · rfl
    · split <;> rfl
  all_goals rfl

/-- What a next state of an instruction other than SYSCALL is: its handlers' answers, through the controller, memory and Writeback. -/
theorem exec_next {i : Instr} {s t : State} (hne : i ≠ .syscall) (h : exec i s = .next t) :
    ∃ out o, out = refAlu i.mnemonic (s.aluIn (encode i) (infoOf i (encode i))) ∧ (s.bdPending && i.isControl) = false ∧
      ((infoOf i (encode i)).memOp = false ∧ o.mem = s.mem ∨
        (infoOf i (encode i)).memOp = true ∧ refMemop i.mnemonic (s.memIn (encode i) (infoOf i (encode i)) out) s.mem = .ok o) ∧
      t = ((((s.setPc (s.pc + 4)).bump i.category).resolveDelaySlot out).withMem o.mem).writeBack
        (infoOf i (encode i)) o.resLo o.resHi := by
  obtain ⟨mem, hmem, hexec⟩ := exec_eq_runAlone (wellFormed_of_exec_next h) hne s
  rw [hexec] at h
  obtain ⟨out, o, hout, hbd, ho, rfl⟩ := runAlone_next (Option.isSome_of_eq_some (aluId_infoOf hne _)) h
  rw [hout, refAlu_bd] at hbd
  refine ⟨out, o, hout, hbd, ho.imp_right fun ⟨hop, ho⟩ => ⟨hop, hmem hop ▸ ho⟩, ?_⟩
  rw [category_infoOf i (encode i)]

/-- What a next state of SYSCALL is: outside a delay slot, the exit or the time service (46_reference_isa_fp.md R262). -/
theorem exec_syscall_next {s t : State} (h : exec .syscall s = .next t) :
    s.bdPending = false ∧ ∃ q,
      t = (s.afterSyscall q true).forceX0 ∨
      s.x[2] = 30 ∧ t = ((((s.tookTime s.nextTime).writeGpr 4 (low32 s.nextTime)).writeGpr 5 (high32 s.nextTime)).afterSyscall
        q false).forceX0 := by
  change runSyscallAlone _ _ _ _ = _ at h
  rw [runSyscallAlone, handSyscall_ref] at h
  cases hb : s.bdPending with
  | true => rw [if_pos hb] at h; cases h
  | false =>
    rw [if_neg (by simp [hb])] at h
    by_cases h10 : s.x[2] = 10
    · rw [if_pos h10] at h
      cases h
      exact ⟨rfl, _, .inl rfl⟩
    · rw [if_neg h10] at h
      by_cases h30 : s.x[2] = 30
      · rw [if_pos h30] at h
        cases h
        exact ⟨rfl, _, .inr ⟨h30, rfl⟩⟩
      · rw [if_neg h30] at h
        cases h

/-! ## Registers (43_memory_writeback.md R151 to R154) -/

section
variable {s : State} {d : DecodeInfo} {lo hi : Word} {r : RegIdx}

theorem State.writeBack_x_zero : (s.writeBack d lo hi).x[(0 : RegIdx)] = 0 :=
  (State.forceX0_getElem _ 0).trans (if_pos rfl)

theorem State.writeBack_x_other (h0 : r ≠ 0) (h : (d.writeReg && d.dst == r) = false) : (s.writeBack d lo hi).x[r] = s.x[r] := by
  rw [State.writeBack, State.forceX0_getElem, if_neg h0, State.commitReg_getElem_x, if_neg (by simpa using h)]

theorem State.writeBack_f_other (h : (d.writeFReg && (d.dst == r || d.fpDouble && d.dst + 1 == r)) = false) :
    (s.writeBack d lo hi).f[r] = s.f[r] := by
  show (s.commitReg _).f[r] = _
  rw [State.commitReg_getElem_f]
  cases hw : d.writeFReg
  · rfl
  · obtain ⟨hlo, hhi⟩ : (d.dst == r) = false ∧ (d.fpDouble && d.dst + 1 == r) = false := by simpa [hw] using h
    simp [hlo, hhi]

theorem State.writeBack_hi_other (h : d.hiWrite = false) : (s.writeBack d lo hi).hi = s.hi := by simp [State.writeBack, h]

theorem State.writeBack_lo_other (h : d.loWrite = false) : (s.writeBack d lo hi).lo = s.lo := by simp [State.writeBack, h]

end

/-- The services write x4 and x5 for the time query, and no other register (46_reference_isa_fp.md R262). -/
theorem exec_syscall_registers {s t : State} (h : exec .syscall s = .next t) :
    (∀ r : RegIdx, r ≠ 0 → ¬ (s.x[2] = 30 ∧ (r = 4 ∨ r = 5)) → t.x[r] = s.x[r]) ∧ t.x[(0 : RegIdx)] = 0 ∧
      t.f = s.f ∧ t.hi = s.hi ∧ t.lo = s.lo := by
  obtain ⟨-, q, rfl | ⟨h30, rfl⟩⟩ := exec_syscall_next h
  · refine ⟨fun r h0 _ => ?_, (State.forceX0_getElem _ 0).trans (if_pos rfl), rfl, rfl, rfl⟩
    rw [State.forceX0_getElem, if_neg h0, State.afterSyscall_x]
  · refine ⟨fun r h0 hr => ?_, (State.forceX0_getElem _ 0).trans (if_pos rfl), rfl, rfl, rfl⟩
    obtain ⟨h4, h5⟩ := not_or.mp fun h45 => hr ⟨h30, h45⟩
    rw [State.forceX0_getElem, if_neg h0, State.afterSyscall_x, State.writeGpr_x, State.writeGpr_x, getElem_set_regIdx,
      getElem_set_regIdx, State.tookTime_x, if_neg (by simpa using Ne.symm h5), if_neg (by simpa using Ne.symm h4)]

/-- Settles O58: Writeback commits to the registers that the decode fields name, and these are the rule's. -/
theorem registerFrame : Obligations.RegisterFrame := by
  intro i s t h
  by_cases hne : i = .syscall
  · subst hne
    obtain ⟨hx, h0, hf, hhi, hlo⟩ := exec_syscall_registers h
    exact ⟨fun r hr _ htime => hx r hr fun h => htime ⟨rfl, h⟩, h0, fun r _ => by rw [hf], fun _ => hhi, fun _ => hlo⟩
  · obtain ⟨out, o, -, -, -, rfl⟩ := exec_next hne h
    refine ⟨fun r h0 hr _ => ?_, State.writeBack_x_zero, fun r hr => ?_, fun hw => ?_, fun hw => ?_⟩
    · refine (State.writeBack_x_other h0 ?_).trans (by simp)
      rw [gprDest_infoOf i (encode i)] at hr
      grind
    · exact (State.writeBack_f_other (writesFpr_infoOf i _ r ▸ hr)).trans (by simp)
    · exact (State.writeBack_hi_other (writesHi_infoOf i _ ▸ hw)).trans (by simp)
    · exact (State.writeBack_lo_other (writesLo_infoOf i _ ▸ hw)).trans (by simp)

/-! ## Memory (20_memory.md R47) -/

/-- Every address an image lists has a value once the image is written. -/
theorem Memory.byte?_writeImage_ne_none {image : List (Word × Byte)} {a : Word} (h : a ∈ image.map (·.1)) (m : Memory) :
    Memory.byte? (Memory.writeImage m image) a ≠ none := by
  induction image generalizing m with
  | nil => cases h
  | cons c image ih =>
    rw [Memory.writeImage_cons]
    by_cases ha : a ∈ image.map (·.1)
    · exact ih ha _
    · obtain rfl : a = c.1 := (List.mem_cons.mp h).resolve_right ha
      rw [Memory.byte?_writeImage_other ha, Memory.byte?_write1_same]
      exact Option.some_ne_none _

theorem placedFrom_half_addresses (a : Word) (v : BitVec 16) : (placedFrom a (bytesOfHalf v)).map (·.1) = [a, a + 1] := by
  rw [bytesOfHalf, placedFrom_cons]; rfl

theorem placedFrom_word_addresses (a v : Word) : (placedFrom a (bytesOfWord v)).map (·.1) = [a, a + 1, a + 2, a + 3] := by
  rw [bytesOfWord, placedFrom_cons]; rfl

theorem storedBytes_of_not_memOp {i : Instr} {w : Word} (h : (infoOf i w).memOp = false) (s : State) : i.storedBytes s = [] := by
  cases i
  case sb | sh | sw | swl | swr | swc1 => cases h
  all_goals rfl

/-- What an instruction with a memory operation writes: an image at the addresses of its rule. -/
theorem refMemop_image {i : Instr} {s : State} {o : MemOut} (hop : (infoOf i (encode i)).memOp = true)
    (h : refMemop i.mnemonic (s.memIn (encode i) (infoOf i (encode i))
      (refAlu i.mnemonic (s.aluIn (encode i) (infoOf i (encode i))))) s.mem = .ok o) :
    ∃ image, o.mem = Memory.writeImage s.mem image ∧ image.map (·.1) = i.storedBytes s := by
  cases i
  case lb | lbu | lwl | lwr => exact ⟨[], mem_eq_of_read h, rfl⟩
  case lh | lhu | lw | lwc1 => exact ⟨[], mem_eq_of_read (ok_of_aligned h), rfl⟩
  case sb rt rs imm =>
    cases h
    refine ⟨[(_, _)], rfl, ?_⟩
    exact congrArg (fun a => [a]) (State.effectiveAddr_aluIn rfl (imm16Of_packI_regs rs rt imm 0x28 (by decide)))
  case sh rt rs imm =>
    cases ok_of_aligned h
    refine ⟨_, Memory.write2_eq_placed _ _ _, (placedFrom_half_addresses _ _).trans ?_⟩
    exact congrArg (fun a => [a, a + 1]) (State.effectiveAddr_aluIn rfl (imm16Of_packI_regs rs rt imm 0x29 (by decide)))
  case sw rt rs imm =>
    cases ok_of_aligned h
    refine ⟨_, Memory.write4_eq_placed _ _ _, (placedFrom_word_addresses _ _).trans ?_⟩
    exact congrArg (fun a => [a, a + 1, a + 2, a + 3])
      (State.effectiveAddr_aluIn rfl (imm16Of_packI_regs rs rt imm 0x2B (by decide)))
  case swc1 ft rs imm =>
    cases ok_of_aligned h
    refine ⟨_, Memory.write4_eq_placed _ _ _, (placedFrom_word_addresses _ _).trans ?_⟩
    exact congrArg (fun a => [a, a + 1, a + 2, a + 3])
      (State.effectiveAddr_aluIn rfl (imm16Of_packI_regs rs ft imm 0x39 (by decide)))
  case swl rt rs imm =>
    cases h
    refine ⟨_, Memory.writeLanes_eq_image _ _ _, (List.map_map ..).trans ?_⟩
    exact congrArg (fun a => (leftLanes a).map (·.1))
      (State.effectiveAddr_aluIn (d := infoOf (.swl rt rs imm) _) rfl (imm16Of_packI_regs rs rt imm 0x2A (by decide)))
  case swr rt rs imm =>
    cases h
    refine ⟨_, Memory.writeLanes_eq_image _ _ _, (List.map_map ..).trans ?_⟩
    exact congrArg (fun a => (rightLanes a).map (·.1))
      (State.effectiveAddr_aluIn (d := infoOf (.swr rt rs imm) _) rfl (imm16Of_packI_regs rs rt imm 0x2E (by decide)))
  all_goals nomatch hop

/-- The memory of a next state of any instruction: an image at the addresses of its rule is written over the memory before. -/
theorem exec_image {i : Instr} {s t : State} (h : exec i s = .next t) :
    ∃ image, t.mem = Memory.writeImage s.mem image ∧ image.map (·.1) = i.storedBytes s := by
  by_cases hne : i = .syscall
  · subst hne
    obtain ⟨-, q, rfl | ⟨-, rfl⟩⟩ := exec_syscall_next h <;> exact ⟨[], rfl, rfl⟩
  · obtain ⟨out, o, rfl, -, hmem, rfl⟩ := exec_next hne h
    have ht : ∀ u : State, ((u.withMem o.mem).writeBack (infoOf i (encode i)) o.resLo o.resHi).mem = o.mem := fun u => by
      simp [State.writeBack]
    rw [ht]
    rcases hmem with ⟨hop, hsame⟩ | ⟨hop, ho⟩
    · exact ⟨[], hsame, (storedBytes_of_not_memOp hop s).symm⟩
    · exact refMemop_image hop ho

/-- Settles O59: what a next state's memory is, an image at the addresses of the rule, leaves every other byte. -/
theorem memoryFrame : Obligations.MemoryFrame := by
  intro i s t h
  obtain ⟨image, hmem, haddr⟩ := exec_image h
  rw [hmem, ← haddr]
  exact ⟨fun a ha => Memory.byte?_writeImage_other ha s.mem, fun a ha => Memory.byte?_writeImage_ne_none ha s.mem⟩

/-! ## Counters and control state (45_reference_isa_int.md R161; 42_execute_delay_slot.md R132, R136) -/

/-- Settles O60: the categories are counted and the controller has the outcome in Execute; Memory and Writeback touch neither. -/
theorem controlStateFrame : Obligations.ControlStateFrame := by
  intro i s t h
  by_cases hne : i = .syscall
  · subst hne
    obtain ⟨hb, q, rfl | ⟨-, rfl⟩⟩ := exec_syscall_next h <;>
      exact ⟨⟨rfl, rfl, rfl, rfl, rfl, rfl, rfl, rfl⟩, ⟨rfl, rfl, rfl, rfl, rfl, rfl, rfl, rfl, rfl, rfl⟩,
        ⟨hb, fun _ => ⟨rfl, rfl⟩⟩, fun hne => absurd rfl hne⟩
  · obtain ⟨out, o, hout, hbd, -, rfl⟩ := exec_next hne h
    have hcontrol : out.bd = i.isControl := by rw [hout, refAlu_bd]
    refine ⟨by simp [State.writeBack], by simp [State.writeBack], ⟨?_, fun hc => ?_⟩, fun _ => by simp [State.writeBack]⟩
    · have hpend : (!s.bdPending && i.isControl) = i.isControl := by
        cases hb : s.bdPending with
        | false => rfl
        | true => rw [hb, Bool.true_and] at hbd; rw [hbd]; rfl
      simpa [State.writeBack, hcontrol] using hpend
    · simp [State.writeBack, hcontrol, hc]

end Sys2Proof.Machine
end

section
/-! SUPPORT. The proofs of the family 46_reference_isa_fp.md: the floating-point moves and arithmetic (R241 to R255) and the services
of SYSCALL (R260 to R262). -/

namespace Sys2Proof.Machine

/-! ## Floating-point operands (46_reference_isa_fp.md R240, R242; 41_decode_hazard.md R108) -/

section
variable {s : State} {w : Word} {d : DecodeInfo} {r : RegIdx}

theorem State.aluIn_a_single (hd : d.fpDouble = false) (h : d.src1 = .fpr r) : (s.aluIn w d).a = s.readFpr r := by
  simp [State.aluIn, aluInput, AluIn.a, hd, h]

theorem State.aluIn_b_single (hd : d.fpDouble = false) (h : d.src2 = .fpr r) : (s.aluIn w d).b = s.readFpr r := by
  simp [State.aluIn, aluInput, AluIn.b, hd, h]

theorem State.aluIn_val1_double (hd : d.fpDouble = true) (h : d.src1 = .fpr r) : (s.aluIn w d).val1 = s.readFprPair r := by
  simp [State.aluIn, aluInput, hd, h]

theorem State.aluIn_val2_double (hd : d.fpDouble = true) (h : d.src2 = .fpr r) : (s.aluIn w d).val2 = s.readFprPair r := by
  simp [State.aluIn, aluInput, hd, h]

end

/-! ## The forms of floating-point instructions -/

section
variable {s : State} {w : Word} {m : Mnemonic} {alu : AluIn → AluOut} {mem : MemIn → Memory → Except Fault MemOut}
  {fd fs ft : RegIdx}

/-- A single-precision operation (46_reference_isa_fp.md R245 to R248): a result `f` of the two words. -/
theorem runAlone_infoFloat_single (f : Word → Word → Word) (h : ∀ i, alu i = { resLo := f i.a i.b }) :
    runAlone w (infoFloat m false fd fs ft w) alu mem s =
      .next ((s.advance.bump { fp := true }).setFpr fd (f (s.readFpr fs) (s.readFpr ft))) :=
  runAlone_advance (out := { resLo := f (s.readFpr fs) (s.readFpr ft) })
    (by rw [h, State.aluIn_a_single rfl rfl, State.aluIn_b_single rfl rfl])

/-- A double-precision operation (46_reference_isa_fp.md R250 to R253): a result `f` of the two pairs, split over the destination's
words. -/
theorem runAlone_infoFloat_double (f : DWord → DWord → DWord) (h : ∀ i, alu i = splitResult (f i.val1 i.val2)) :
    runAlone w (infoFloat m true fd fs ft w) alu mem s =
      .next ((s.advance.bump { fp := true }).setPair fd (f (s.readFprPair fs) (s.readFprPair ft))) :=
  runAlone_advance (out := splitResult (f (s.readFprPair fs) (s.readFprPair ft)))
    (by rw [h, State.aluIn_val1_double rfl rfl, State.aluIn_val2_double rfl rfl])

end

/-! ## Moves and arithmetic (46_reference_isa_fp.md R243 to R254) -/

/-- Settles O55: each operation's handler applies its parameter to the two words, and each move's handler answers its operand. -/
theorem singleFloatResults : Obligations.SingleFloatResults := by
  intro s rt fd fs ft a b next
  refine ⟨runAlone_advance (out := { resLo := a }) ?_, runAlone_advance (out := { resLo := s.readGpr rt }) ?_,
    runAlone_infoFloat_single Config.fadd32 fun _ => rfl, runAlone_infoFloat_single Config.fsub32 fun _ => rfl,
    runAlone_infoFloat_single Config.fmul32 fun _ => rfl, runAlone_infoFloat_single Config.fdiv32 fun _ => rfl,
    runAlone_advance (out := { resLo := a }) ?_⟩
  · rw [aluMfc1, State.aluIn_a_single rfl rfl]
  · rw [aluMtc1, State.aluIn_a rfl]
  · rw [aluMovS, State.aluIn_a_single rfl rfl]

/-- Settles O56: on even registers each passage is guarded by a check that succeeds, and its handler applies its parameter to the
pairs, whose high word is the odd one. -/
theorem doubleFloatResults : Obligations.DoubleFloatResults := by
  intro s fd fs ft hfd hfs a b next
  have hmov : (evenReg fd && evenReg fs) = true := by rw [hfd, hfs]; rfl
  refine ⟨fun hft => ?_, (if_pos hmov).trans (runAlone_advance (out := splitResult a) ?_)⟩
  · have harith : (evenReg fd && evenReg fs && evenReg ft) = true := by rw [hmov, hft]; rfl
    exact ⟨(if_pos harith).trans (runAlone_infoFloat_double Config.fadd64 fun _ => rfl),
      (if_pos harith).trans (runAlone_infoFloat_double Config.fsub64 fun _ => rfl),
      (if_pos harith).trans (runAlone_infoFloat_double Config.fmul64 fun _ => rfl),
      (if_pos harith).trans (runAlone_infoFloat_double Config.fdiv64 fun _ => rfl)⟩
  · rw [aluMovD, State.aluIn_val1_double rfl rfl]; rfl

/-- Settles O57: the passage's guard fails, and the decoder refuses the encoding of an odd register. -/
theorem oddDoubleRegisterFaults : Obligations.OddDoubleRegisterFaults := by
  intro s i hodd
  refine ⟨exec_of_not_wellFormed hodd s, ?_⟩
  show refDecode (encode i) = _
  rw [refDecode, decode_encode, decodeDouble_of_not_wellFormed hodd]

/-! ## The services of SYSCALL (46_reference_isa_fp.md R260 to R262) -/

/-- A system call outside a delay slot whose service faults (43_memory_writeback.md R148). -/
theorem runSyscallAlone_error {w : Word} {d : DecodeInfo} {sys : SysIn → SysProg} {s : State} {r : Fault}
    (hb : s.bdPending = false) (ho : (sys { reg := soloRegister s w d }).run s = .error r) :
    runSyscallAlone w d sys s = .fault r := by
  rw [runSyscallAlone, if_neg (by simp [hb]), handSyscall, ho]; rfl

/-- Settles O48: the service is chosen by `x[2]`, and Writeback resumes past the call. The time handed out is the model's next one. -/
theorem syscallResults : Obligations.SyscallResults := by
  intro s hb
  refine ⟨fun h10 => ?_, fun h30 => ⟨s.nextTime, s.lastTime_le_nextTime, ?_⟩, fun h10 h30 => ?_⟩
  · exact runSyscallAlone_ok hb (by rw [refSyscall_run, if_pos h10])
  · have h10 : s.x[2] ≠ 10 := by rw [h30]; decide
    exact runSyscallAlone_ok hb (by rw [refSyscall_run, if_neg h10, if_pos h30])
  · exact runSyscallAlone_error hb (by rw [refSyscall_run, if_neg h10, if_neg h30])

end Sys2Proof.Machine
end

section
/-! SUPPORT. The proofs of the family 60_exceptions.md: a fault is recorded over the state before the tick (R288), and only Writeback
and the commit end a run (R285; 40_clock_fetch.md R94; 43_memory_writeback.md R148, R149). -/

namespace Sys2Proof.Machine

/-! ## The recorded fault (60_exceptions.md R288) -/

/-- A state with a recorded fault takes no step: it answers that fault (log entry 9). -/
theorem step_of_faulted {s : State} {r : Fault} (h : s.fault = some r) : step s = .fault r := by
  simp only [step, guardedTick, h]

theorem stepRecorded_of_fault {s : State} {r : Fault} (h : step s = .fault r) : stepRecorded s = { s with fault := some r } := by
  rw [stepRecorded, h]

/-- Settles O13: the step answers the tick's fault, and the state that records it answers it again, so recording it once more changes
nothing. -/
theorem faultDiscardsTick : Obligations.FaultDiscardsTick := by
  intro s r hlive htick
  have hstep : step s = .fault r := by rw [step_of_mayTick hlive, htick]; rfl
  refine ⟨hstep, stepRecorded_of_fault hstep, ?_⟩
  rw [stepRecorded_of_fault hstep]
  exact stepRecorded_of_fault (step_of_faulted rfl)

/-! ## What ends a run (60_exceptions.md R285) -/

/-- Whether the run has ended, and why, is the same in both states. -/
structure SameEnd (s t : State) : Prop where
  exit : t.exit = s.exit
  haltReason : t.haltReason = s.haltReason

theorem SameEnd.trans {s t u : State} (h : SameEnd s t) (k : SameEnd t u) : SameEnd s u :=
  ⟨k.exit.trans h.exit, k.haltReason.trans h.haltReason⟩

theorem memStep_sameEnd {c : Cfg} {s t : State} (h : memStep c s = .ok t) : SameEnd s t := by
  obtain ⟨p, m, -, rfl⟩ := memStep_ok h
  constructor <;> simp

theorem exStep_sameEnd {c : Cfg} {s t : State} (h : exStep c s = .ok t) : SameEnd s t := by
  rcases exStep_cases h with ⟨-, rfl⟩ | ⟨-, -, rfl⟩ | ⟨-, -, -, -, rfl⟩ | ⟨-, -, -, p, u, hp, rfl⟩
  · constructor <;> simp
  · constructor <;> simp
  · constructor <;> simp
  · obtain ⟨out, -, -, -, -, rfl⟩ := execPass_cases hp
    constructor <;> split <;> simp

theorem idStep_sameEnd {c : Cfg} {s t : State} (h : idStep c s = .ok t) : SameEnd s t := by
  rcases idStep_cases h with ⟨-, rfl⟩ | ⟨-, -, rfl⟩ | ⟨-, d, -, -, ⟨-, rfl⟩ | ⟨-, rfl⟩⟩ <;> constructor <;> simp

theorem ifStep_sameEnd {s t : State} (h : ifStep s = .ok t) : SameEnd s t := by
  rcases ifStep_cases h with ⟨-, w, -, rfl⟩ | ⟨-, -, rfl⟩ | ⟨-, -, rfl⟩ <;> constructor <;> simp

/-- The commit of a run that has not ended gives the budget as the reason exactly when it ends it (40_clock_fetch.md R94). -/
theorem State.commit_haltReason (s : State) (h : s.exit = false) :
    s.commit.haltReason = if s.commit.exit then some .budget else s.haltReason := by
  simp [State.commit, h]

/-- A reference service requests exit only when its number is 10 (46_reference_isa_fp.md R262). -/
theorem service_eq_of_refSyscall_exit {i : SysIn} {s u : State} (h : (refSyscall i).run s = .ok (u, true)) : s.x[2] = 10 := by
  by_contra h10
  rw [refSyscall_run, if_neg h10] at h
  split at h <;> cases h

/-- What is in Writeback when Writeback ends the run, by the reason it gives: an illegal opcode, or a system call that requests exit. -/
inductive WritebackEnds (s : State) : HaltReason → Prop
  | illegalOpcode (real : s.memWb.cur.isNop = false) (illegal : s.memWb.cur.isIllegal = true) : WritebackEnds s .illegalOpcode
  | syscallExit (real : s.memWb.cur.isNop = false) (call : s.memWb.cur.isSyscall = true) (service : s.x[2] = 10) :
      WritebackEnds s .syscallExit

/-- Writeback ends the run with its reason, or changes neither (43_memory_writeback.md R148, R149). -/
theorem wbStep_end {s t : State} (h : wbStep Cfg.reference s = .ok t) :
    (t.exit = true ∧ ∃ why, t.haltReason = some why ∧ WritebackEnds s why) ∨ SameEnd s t := by
  rcases wbStep_cases h with ⟨-, rfl⟩ | ⟨hn, hs, u, exitReq, ho, rfl⟩ | ⟨hn, -, hi, rfl⟩ | ⟨-, -, -, rfl⟩
  · exact .inr ⟨rfl, rfl⟩
  · cases exitReq
    · rw [(SysProg.run_frame ho).same]
      exact .inr ⟨rfl, rfl⟩
    · exact .inl ⟨rfl, _, rfl, .syscallExit hn hs (service_eq_of_refSyscall_exit (i := { reg := s.memWb.cur }) ho)⟩
  · exact .inl ⟨rfl, _, rfl, .illegalOpcode hn hi⟩
  · right; constructor <;> simp

/-- A tick of a run that has not ended: Writeback ends it, or the commit decides by the budget and the drained pipe
(40_clock_fetch.md R93, R94). -/
theorem tick_end {s t : State} (hlive : s.exit = false) (h : tick Cfg.reference s = .ok t) :
    (t.exit = true ∧ ∃ why, t.haltReason = some why ∧ WritebackEnds s why) ∨
    (t.exit = (t.budgetReached && t.drained && !t.syscallPending) ∧
      t.haltReason = if t.exit then some .budget else s.haltReason) := by
  obtain ⟨s1, h1, ⟨hexit, rfl⟩ | ⟨hgoes, s2, s3, s4, s5, h2, h3, h4, h5, rfl⟩⟩ := tick_cases h
  · rcases wbStep_end h1 with hend | hsame
    · exact .inl hend
    · rw [hsame.exit, hlive] at hexit
      cases hexit
  · rcases wbStep_end h1 with ⟨hexit, -⟩ | hsame
    · rw [hgoes] at hexit
      cases hexit
    · have hend : SameEnd s s5 :=
        hsame.trans ((memStep_sameEnd h2).trans ((exStep_sameEnd h3).trans ((idStep_sameEnd h4).trans (ifStep_sameEnd h5))))
      have hlive5 : s5.exit = false := hend.exit.trans hlive
      exact .inr ⟨s5.commit_exit hlive5, by rw [s5.commit_haltReason hlive5, hend.haltReason]⟩

/-- Settles O15: Writeback's two ends carry their own reasons, and the commit ends the run exactly on a reached budget with a drained
pipe. -/
theorem onlyThreeEventsEndRun : Obligations.OnlyThreeEventsEndRun := by
  intro s t h
  obtain ⟨-, -, hlive, htick⟩ := step_next.mp h
  rcases tick_end hlive htick with ⟨hexit, why, hreason, hwhy⟩ | ⟨hbudget, hreason⟩
  · refine ⟨fun _ => ?_, fun hgoes => ?_⟩
    · cases hwhy with
      | illegalOpcode hn hi => exact .inl ⟨hreason, hn, hi⟩
      | syscallExit hn hs h10 => exact .inr (.inl ⟨hreason, hn, hs, h10⟩)
    · rw [hexit] at hgoes
      cases hgoes
  · refine ⟨fun hexit => .inr (.inr ⟨?_, ?_⟩), fun hgoes => ⟨?_, ?_⟩⟩
    · rw [hreason, if_pos hexit]
    · simpa [hexit, and_assoc] using hbudget
    · rw [hreason, if_neg (by simp [hgoes])]
    · rintro ⟨hreached, hdrained, hserved⟩
      simp [hgoes, hreached, hdrained, hserved] at hbudget

end Sys2Proof.Machine
end

section
/-! SUPPORT. The proofs of the family 70_reset_and_hazards.md: Decode selects against the writers it sees in Execute and Memory, and the
same tick moves them one stage on, where the instruction it issued finds their results (70_reset_and_hazards.md R307; 41_decode_hazard.md
R104 to R107; 42_execute_delay_slot.md R125). -/

namespace Sys2Proof.Machine

/-! ## Writers in flight, one stage on -/

/-- `q` is to write the registers that `p` was to write, and is a load if `p` was one. -/
structure PipeReg.SameWrites (p q : PipeReg) : Prop where
  writesGpr : ∀ i, q.writesGpr i = p.writesGpr i
  writesFprPair : ∀ k, q.writesFprPair k = p.writesFprPair k
  writesHiLo : q.writesHiLo = p.writesHiLo
  isLoad : q.isLoad = p.isLoad

theorem PipeReg.Carries.sameWrites {p q : PipeReg} (h : p.Carries q) : p.SameWrites q where
  writesGpr := h.writesGpr
  writesFprPair k := by simp only [PipeReg.writesFprPair, PipeReg.real, h.isNop, h.writeFReg, h.dst]
  writesHiLo := h.writesHiLo
  isLoad := by simp only [PipeReg.isLoad, PipeReg.real, h.isNop, h.memOp, h.writeReg, h.writeFReg]

/-- Two empty slots write nothing. -/
theorem PipeReg.SameWrites.of_nop {p q : PipeReg} (hp : p.isNop = true) (hq : q.isNop = true) : p.SameWrites q := by
  constructor <;> simp [PipeReg.writesGpr, PipeReg.writesFprPair, PipeReg.writesHiLo, PipeReg.isLoad, PipeReg.real, hp, hq]

theorem AheadFlow.execute_sameWrites {s : State} {q p : PipeReg} {bd : Bool} (hf : AheadFlow s q p bd) :
    s.idEx.cur.SameWrites p := by
  cases hn : s.idEx.cur.isNop with
  | true => exact .of_nop hn (by rw [hf.executeNone hn]; rfl)
  | false => exact (hf.execute hn).sameWrites

/-! ## The selection gives the sequential operand (41_decode_hazard.md R104 to R106; 42_execute_delay_slot.md R125) -/

section
variable {t : State} {e m : PipeReg} {mode : ForwardMode}

/-- A general source that does not stall: its tag names the youngest writer in flight, or there is none. -/
theorem operandOk_gpr (hE : e.SameWrites t.exMem.cur) (hM : m.SameWrites t.memWb.cur) {dbl : Bool} {i : RegIdx}
    (hgo : (selectSrc mode e m (.gpr i)).1 = false) :
    OperandOk t (.gpr i) (selectSrc mode e m (.gpr i)).2 (t.readOp dbl (.gpr i)) := by
  by_cases hi : i = 0
  · subst hi
    exact ⟨by simp [selectSrc, fwdVal, State.seqGpr, State.readGpr], .inl rfl⟩
  simp only [OperandOk, State.seqGpr, hE.writesGpr, hM.writesGpr, hE.isLoad, if_neg hi]
  by_cases hmode : mode = .none
  · subst hmode
    rw [selectSrc_gpr_stall hi] at hgo ⊢
    obtain ⟨he, hm⟩ : e.writesGpr i = false ∧ m.writesGpr i = false := by simpa using hgo
    simp [he, hm, fwdVal]
  rw [selectSrc_gpr_bypass hi hmode] at hgo ⊢
  cases he : e.writesGpr i with
  | true =>
    have hload : e.isLoad = false := by
      rw [if_pos he] at hgo
      cases hload : e.isLoad with
      | true => simp [hload] at hgo
      | false => rfl
    simp [hload, fwdVal]
  | false =>
    cases hm : m.writesGpr i with
    | true =>
      have hexmem : mode = .exmem := by
        by_contra hno
        simp [he, hm, hno] at hgo
      simp [hexmem, fwdVal]
    | false => simp [fwdVal]

/-- Any source that does not stall. A floating-point source stalls for every writer of its pair. -/
theorem operandOk_of_selected (hE : e.SameWrites t.exMem.cur) (hM : m.SameWrites t.memWb.cur) {dbl : Bool}
    (hdbl : t.idEx.cur.fpDouble = dbl) {src : SrcRef} (hgo : (selectSrc mode e m src).1 = false) :
    OperandOk t src (selectSrc mode e m src).2 (t.readOp dbl src) := by
  subst hdbl
  cases src with
  | none => rfl
  | gpr i => exact operandOk_gpr hE hM hgo
  | fpr i =>
    have hfree : e.writesFprPair (i.val / 2) = false ∧ m.writesFprPair (i.val / 2) = false := by
      simpa [selectSrc, PipeReg.matchesSrc] using hgo
    exact ⟨rfl, (hE.writesFprPair _).trans hfree.1, (hM.writesFprPair _).trans hfree.2⟩

end

theorem stallDecision_eq_false {mode : ForwardMode} {d : DecodeInfo} {e m : PipeReg} :
    stallDecision mode d e m = false ↔
      (selectSrc mode e m d.src1).1 = false ∧ (selectSrc mode e m d.src2).1 = false ∧ hiloStall d e m = false := by
  simp [stallDecision, and_assoc]

/-! ## What a tick issues to Execute (41_decode_hazard.md R108, R112) -/

/-- The register of an instruction with decode fields `d` issued by Decode in a tick from `s` to `t`: the operands are read from the
registers as Writeback left them, which no later stage changes, and the tags are selected against the writers of `s`. -/
def issuedReg (s t : State) (d : DecodeInfo) : PipeReg :=
  decoded s.ifId.cur d (t.readOp d.fpDouble d.src1) (t.readOp d.fpDouble d.src2)
    (selectSrc s.fwdMode s.idEx.cur s.exMem.cur d.src1).2 (selectSrc s.fwdMode s.idEx.cur s.exMem.cur d.src2).2

theorem SameData.readOp {s t : State} (h : SameData s t) (dbl : Bool) (r : SrcRef) : t.readOp dbl r = s.readOp dbl r := by
  cases r <;> simp only [State.readOp, State.readGpr, State.readFprPair, State.readFpr, h.x, h.f]

/-- After a tick that does not end the run, Execute holds a bubble, the inert register of an illegal word, or an instruction that
Decode issued because nothing stalled it. -/
theorem tick_issues {c : Cfg} {s t : State} (h : tick c s = .ok t) (he : t.exit = false) :
    t.idEx.cur = bubble ∨ t.idEx.cur = illegalReg s.ifId.cur ∨
    ∃ d, stallDecision s.fwdMode d s.idEx.cur s.exMem.cur = false ∧ t.idEx.cur = issuedReg s t d := by
  obtain ⟨s1, h1, ⟨hexit, rfl⟩ | ⟨hlive, s2, v, s4, s5, h2, h3, h4, h5, rfl⟩⟩ := tick_cases h
  · rw [State.countCycle_exit, hexit] at he
    cases he
  have hback := backFlow_of_steps h1 hlive h2 h3
  have hread := (((idStep_sameData h4).trans (ifStep_sameData h5)).trans s5.commit_sameData).readOp
  have hcur : s5.commit.idEx.cur = s4.idEx.nxt := by
    rcases ifStep_cases h5 with ⟨-, w, -, rfl⟩ | ⟨-, -, rfl⟩ | ⟨-, -, rfl⟩ <;>
      simp [(commit_ok he).1]
  simp only [hcur, issuedReg, hread, ← hback.ifId, ← hback.idEx, ← hback.exMem, ← hback.fwdMode]
  rcases idStep_cases h4 with ⟨-, rfl⟩ | ⟨-, -, rfl⟩ | ⟨-, d, -, -, ⟨-, rfl⟩ | ⟨hgo, rfl⟩⟩
  · exact .inl rfl
  · exact .inr (.inl rfl)
  · exact .inl rfl
  · exact .inr (.inr ⟨d, hgo, by simp⟩)

/-- An instruction issued against writers that have since moved one stage on has the sequential operands, and no HI or LO write ahead
of it (70_reset_and_hazards.md R307). -/
theorem operandsInv_of_issued {s t : State} {d : DecodeInfo} (hE : s.idEx.cur.SameWrites t.exMem.cur)
    (hM : s.exMem.cur.SameWrites t.memWb.cur) (hgo : stallDecision s.fwdMode d s.idEx.cur s.exMem.cur = false)
    (hout : t.idEx.cur = issuedReg s t d) : OperandsInv t := by
  obtain ⟨hgo1, hgo2, hhilo⟩ := stallDecision_eq_false.mp hgo
  have hdouble : t.idEx.cur.fpDouble = d.fpDouble := by rw [hout]; rfl
  refine ⟨fun _ _ => ?_, fun _ _ => ?_, fun _ huses => ?_⟩
  · rw [hout]
    exact operandOk_of_selected hE hM hdouble hgo1
  · rw [hout]
    exact operandOk_of_selected hE hM hdouble hgo2
  · have huses : (d.hiWrite || d.loWrite || d.readsHi || d.readsLo) = true := by rw [hout] at huses; exact huses
    rw [hE.writesHiLo, hM.writesHiLo]
    simpa [hiloStall, huses] using hhilo

/-- Settles O11: Decode issues only what no hazard stalls, and its choice fits the writers where the tick leaves them. -/
theorem executeOperandsAreSequential : Obligations.ExecuteOperandsAreSequential := by
  intro s t h he
  obtain ⟨-, -, -, htick⟩ := step_next.mp h
  have hf := (tick_flow htick he).toAheadFlow
  rcases tick_issues htick he with hout | hout | ⟨d, hgo, hout⟩
  · exact operandsInv_of_bubble (by rw [hout]; rfl)
  · refine ⟨fun _ hlegal => ?_, fun _ hlegal => ?_, fun _ huses => ?_⟩
    · rw [hout] at hlegal
      cases hlegal
    · rw [hout] at hlegal
      cases hlegal
    · rw [hout] at huses
      cases huses
  · exact operandsInv_of_issued hf.execute_sameWrites hf.memory.sameWrites hgo hout

end Sys2Proof.Machine
end
